-- ==== Sys2Proof/Word.lean ====
section
/-! DEFINITION. The words, bytes and bit sequences the spec computes with. -/

namespace Sys2Proof

/-- A 32-bit register value or command word (20_memory.md R205, 30_encoding.md R300). -/
abbrev Word := BitVec 32

/-- A FIFO byte (20_memory.md R212). -/
abbrev Byte := BitVec 8

/-- A bit sequence; the head is element 0 (00_scope.md R9). -/
abbrev Bits := List Bool

end Sys2Proof
end

