-- ==== Sys2Proof/Machine/Seq.lean ====
section
/-! DEFINITION. Bit sequences and their correspondence with register values (00_scope.md R9-R13). -/

namespace Sys2Proof.Machine

/-- `seq_n(v)`: element `j` is register bit `j` (R10). -/
def seqOf {w : Nat} (n : Nat) (v : BitVec w) : Bits :=
  (List.range n).map fun j => v.getLsbD j

/-- `val(s) = sum over j of s[j] * 2^j` (R10). -/
def val : Bits → Nat
  | [] => 0
  | b :: s => b.toNat + 2 * val s

/-- The `w`-bit register value of a sequence (R10). -/
def regOf (w : Nat) (s : Bits) : BitVec w := BitVec.ofNat w (val s)

/-- `msbnum(s)`: the sequence read as a numeral, first element most significant (R11). -/
def msbnum (s : Bits) : Nat := s.foldl (fun n b => 2 * n + b.toNat) 0

/-- `msbseq_n(x)`: the `n`-bit number `x` as a sequence, most significant bit first (R11). -/
def msbseq (n x : Nat) : Bits := ((List.range n).map fun j => x.testBit j).reverse

/-- `rotl(s, k)`: element `j` of the result is element `(j + k) mod n` of `s` (R12). -/
def rotl (s : Bits) (k : Nat) : Bits :=
  (List.range s.length).map fun j => s.getD ((j + k) % s.length) false

/-- `apply(s, T)`: output position `i` takes input position `T[i]` (R13). Every use has its indices in
range (42_permutation.md R511, R515); an index outside would read `false` (log 16). -/
def applyTable (s : Bits) (table : List Nat) : Bits := table.map fun i => s.getD i false

/-- `xor(s, t)`: elementwise exclusive-or (R9). -/
def xorBits (s t : Bits) : Bits := List.zipWith (· ^^ ·) s t

end Sys2Proof.Machine
end

