-- ==== Sys2Proof/Config.lean ====
section
/-! DEFINITION. What is fixed for an instance of the block, and the one free value of the spec. -/

namespace Sys2Proof

/-- The two cipher variants that `CTRL.VARIANT` selects (00_scope.md R2, 10_state.md R111). -/
inductive Variant where
  | full
  | toy
deriving DecidableEq, Repr

/-- The chunker's two padding policies that `CTRL.PAD_MODE` selects (41_chunker_stream.md R452). -/
inductive PadMode where
  | byte
  | bit
deriving DecidableEq, Repr

/-- The configuration parameters of the block, fixed for the life of an instance (00_scope.md R7). -/
structure Params where
  /-- capacity of the input FIFO in bytes -/
  inDepth : Nat
  /-- capacity of the output FIFO in bytes -/
  outDepth : Nat
  /-- rotation applied before round 1 of the Toy key schedule -/
  toyR1Shift : Nat
deriving DecidableEq, Repr

/-- The legal parameter values of 00_scope.md R7. -/
abbrev Params.Legal (p : Params) : Prop :=
  (8 ≤ p.inDepth ∧ p.inDepth ≤ 255) ∧ (8 ≤ p.outDepth ∧ p.outDepth ≤ 255) ∧ p.toyR1Shift ≤ 1

/-- The spec's default parameters (00_scope.md R7). -/
def Params.default : Params := { inDepth := 16, outDepth := 16, toyR1Shift := 0 }

/-- The free 32-bit draw that the `n`-th read of a result register while busy returns
(10_state.md R161, 93_implementation_defined.md U1; log 4). It has no body: no proof can see its value. -/
opaque Config.freeRead : Nat → Word

end Sys2Proof
end

