-- ==== Sys2Proof/Machine/State.lean ====
section
/-! DEFINITION. The state of the block and its value after reset; the reasons a step can stop. -/

namespace Sys2Proof.Machine

/-- The error codes 1 to 11 of 60_exceptions.md R800. Code 0 is the absence of an error. -/
inductive ErrorCode where
  | shape
  | length
  | keyLength
  | keyNotReady
  | badRoundIndex
  | badArgument
  | illegalCommand
  | sequence
  | fifoOverflow
  | fifoUnderflow
  | config
deriving DecidableEq, Repr

/-- `STATUS.ERR_SRC`: a command (0) or a register access (1) (10_state.md R129). -/
inductive ErrorSource where
  | command
  | access
deriving DecidableEq, Repr

/-- The record of the first error since `ERR` was last 0 (10_state.md R127, R128, R129, R132). -/
structure ErrorRecord where
  /-- `STATUS.ERRCODE` -/
  code : ErrorCode
  /-- `STATUS.ERR_SRC` -/
  src : ErrorSource
  /-- `ERR_INFO` -/
  info : Word
  /-- `STATUS.ERR_MULTI` -/
  multi : Bool
deriving DecidableEq, Repr

/-- The fields of `CTRL`; its reserved bits have no storage (10_state.md R110-R118). -/
structure Ctrl where
  variant : Variant
  padMode : PadMode
  padBit : Bool
  ieDone : Bool
  ieErr : Bool
  nrounds : BitVec 5
  padByte : Byte
deriving DecidableEq, Repr

/-- The stream state of 10_state.md R153, with `STATUS.MSG_ACTIVE`. -/
structure Stream where
  /-- `STATUS.MSG_ACTIVE` (10_state.md R123) -/
  active : Bool
  /-- `MODE_DEC`, shown as `STATUS.MSG_DECRYPT` -/
  modeDec : Bool
  /-- input bits not yet formed into a block -/
  ibuf : Bits
  /-- output bits not yet packed into bytes -/
  obuf : Bits
  /-- message bytes still to be popped from the input FIFO (log 19) -/
  bytesLeft : Nat
  /-- filler units still to be appended: bytes in BYTE mode, bits in BIT mode (log 19) -/
  padLeft : Nat
deriving DecidableEq, Repr

/-- One host access of the register window: `width` in bytes, `off` the byte offset
(20_memory.md R200). -/
inductive Access where
  /-- `MemRead(off, width)` -/
  | read (width off : Nat)
  /-- `MemWrite(off, width, v)` -/
  | write (width off : Nat) (v : Word)
deriving DecidableEq, Repr

/-- Whose step comes next in the interleaving (20_memory.md R230; log 1). -/
inductive Turn where
  /-- the engine takes its enabled step, if it has one -/
  | engine
  /-- the host performs one access -/
  | host (a : Access)
  /-- the reset event (70_reset_and_hazards.md R900) -/
  | reset
deriving DecidableEq, Repr

/-- The state of the machine. INVENTORY.md lists each field's rule. -/
structure State where
  /-- configuration parameters, never changed by a step (00_scope.md R7; log 3) -/
  params : Params
  /-- `CTRL` (10_state.md R110) -/
  ctrl : Ctrl
  /-- `STATUS.KEY_VALID` (10_state.md R122) -/
  keyValid : Bool
  /-- `STATUS.DONE` (10_state.md R125) -/
  done : Bool
  /-- `STATUS.ERR` with the error record; `none` is `ERR = 0` (10_state.md R126-R129, R132; log 15) -/
  error : Option ErrorRecord
  /-- `PENDING`: the command word and its valid bit (10_state.md R152) -/
  pending : Option Word
  /-- `KEY`: `KEY_LO` and `KEY_HI` (10_state.md R133) -/
  key : BitVec 64
  /-- `KEY_LEN` (10_state.md R134) -/
  keyLen : BitVec 7
  /-- `RK_SEL` (10_state.md R136) -/
  rkSel : BitVec 5
  /-- `RKF[1..16]`; entry `i` of the spec is index `i - 1` (10_state.md R151) -/
  rkf : Vector (BitVec 48) 16
  /-- `L` (10_state.md R138) -/
  halfL : Word
  /-- `R` (10_state.md R138) -/
  halfR : Word
  /-- `BV`: `BV_LO` and `BV_HI` (10_state.md R139) -/
  bv : BitVec 64
  /-- `BV_LEN` (10_state.md R139) -/
  bvLen : BitVec 7
  /-- `RES`: `RES_LO` and `RES_HI` (10_state.md R140) -/
  res : BitVec 64
  /-- `RES_LEN` (10_state.md R140) -/
  resLen : BitVec 7
  /-- the input FIFO `IN`, oldest byte first (10_state.md R154) -/
  inFifo : List Byte
  /-- the output FIFO `OUT`, oldest byte first (10_state.md R154) -/
  outFifo : List Byte
  /-- `MSG_LEN` (10_state.md R144) -/
  msgLen : Word
  /-- `MSG_PAD` (10_state.md R145) -/
  msgPad : Byte
  /-- `MSG_BLOCKS` (10_state.md R146) -/
  msgBlocks : Word
  /-- `UTAB_LEN` (10_state.md R147) -/
  utabLen : BitVec 7
  /-- `UTAB[0..63]` (10_state.md R148) -/
  utab : Vector (BitVec 6) 64
  /-- the stream state (10_state.md R153) -/
  stream : Stream
  /-- the model's own: the turns still to come; an empty agenda is the engine's turn (log 1) -/
  agenda : List Turn
  /-- the model's own: the word the last host read returned (log 5) -/
  readData : Word
  /-- the model's own: how many free draws have been made (log 4) -/
  freeCount : Nat
deriving DecidableEq, Repr

/-- The reasons the machine stops with a fault: none. The spec records every error in `STATUS` and goes
on, and leaves nothing undefined (60_exceptions.md R850, 93_implementation_defined.md part 2; log 20). -/
inductive Fault where
deriving DecidableEq, Repr

/-- The reasons a step is refused. -/
inductive Refusal where
  /-- raised by an arm of `exec` whose instruction has no meaning yet; safe -/
  | notModelled (mnemonic : String)
  /-- raised by a host access of another width than 4 bytes, off alignment or at or above 0x200, which
  the host must not issue and a model refuses (20_memory.md R200, R214; log 9); safe -/
  | outsideContract (width off : Nat)
deriving DecidableEq, Repr

/-- `CTRL` after reset, `0x00001000` (10_state.md R110, R170). -/
def Ctrl.reset : Ctrl :=
  { variant := .full, padMode := .byte, padBit := false, ieDone := false, ieErr := false,
    nrounds := 16, padByte := 0 }

/-- The stream state after reset (10_state.md R153). -/
def Stream.idle : Stream :=
  { active := false, modeDec := false, ibuf := [], obuf := [], bytesLeft := 0, padLeft := 0 }

/-- The machine right after reset, for an instance with parameters `p` (10_state.md R170). -/
def State.resetWith (p : Params) : State :=
  { params := p
    ctrl := Ctrl.reset
    keyValid := false
    done := false
    error := none
    pending := none
    key := 0
    keyLen := 0
    rkSel := 0
    rkf := Vector.replicate 16 0
    halfL := 0
    halfR := 0
    bv := 0
    bvLen := 0
    res := 0
    resLen := 0
    inFifo := []
    outFifo := []
    msgLen := 0
    msgPad := 0
    msgBlocks := 0
    utabLen := 0
    utab := Vector.replicate 64 0
    stream := Stream.idle
    agenda := []
    readData := 0
    freeCount := 0 }

/-- The machine right after reset, at the spec's default parameters (10_state.md R170, 00_scope.md R7). -/
def State.reset : State := State.resetWith Params.default

end Sys2Proof.Machine
end

