-- ==== Sys2Proof/Machine/Tables.lean ====
section
/-! DEFINITION. The fixed permutation tables and the shift table (42_permutation.md R501-R510,
44_key_schedule.md R601), 0-based, row by row as the spec lists them (log 11). -/

namespace Sys2Proof.Machine

/-- IP, the initial permutation, 64 to 64 (42_permutation.md R501). -/
def tableIP : List Nat :=
  [57, 49, 41, 33, 25, 17,  9,  1] ++
  [59, 51, 43, 35, 27, 19, 11,  3] ++
  [61, 53, 45, 37, 29, 21, 13,  5] ++
  [63, 55, 47, 39, 31, 23, 15,  7] ++
  [56, 48, 40, 32, 24, 16,  8,  0] ++
  [58, 50, 42, 34, 26, 18, 10,  2] ++
  [60, 52, 44, 36, 28, 20, 12,  4] ++
  [62, 54, 46, 38, 30, 22, 14,  6]

/-- FP, the final permutation, 64 to 64 (R502). -/
def tableFP : List Nat :=
  [39,  7, 47, 15, 55, 23, 63, 31] ++
  [38,  6, 46, 14, 54, 22, 62, 30] ++
  [37,  5, 45, 13, 53, 21, 61, 29] ++
  [36,  4, 44, 12, 52, 20, 60, 28] ++
  [35,  3, 43, 11, 51, 19, 59, 27] ++
  [34,  2, 42, 10, 50, 18, 58, 26] ++
  [33,  1, 41,  9, 49, 17, 57, 25] ++
  [32,  0, 40,  8, 48, 16, 56, 24]

/-- E, the Full expansion, 32 to 48 (R503). -/
def tableE : List Nat :=
  [31,  0,  1,  2,  3,  4] ++
  [ 3,  4,  5,  6,  7,  8] ++
  [ 7,  8,  9, 10, 11, 12] ++
  [11, 12, 13, 14, 15, 16] ++
  [15, 16, 17, 18, 19, 20] ++
  [19, 20, 21, 22, 23, 24] ++
  [23, 24, 25, 26, 27, 28] ++
  [27, 28, 29, 30, 31,  0]

/-- P, the Full S-box output permutation, 32 to 32 (R504). -/
def tableP : List Nat :=
  [15,  6, 19, 20, 28, 11, 27, 16] ++
  [ 0, 14, 22, 25,  4, 17, 30,  9] ++
  [ 1,  7, 23, 13, 31, 26,  2,  8] ++
  [18, 12, 29,  5, 21, 10,  3, 24]

/-- PC1, the Full key permutation, 64 to 56 (R505). -/
def tablePC1 : List Nat :=
  [56, 48, 40, 32, 24, 16,  8] ++
  [ 0, 57, 49, 41, 33, 25, 17] ++
  [ 9,  1, 58, 50, 42, 34, 26] ++
  [18, 10,  2, 59, 51, 43, 35] ++
  [62, 54, 46, 38, 30, 22, 14] ++
  [ 6, 61, 53, 45, 37, 29, 21] ++
  [13,  5, 60, 52, 44, 36, 28] ++
  [20, 12,  4, 27, 19, 11,  3]

/-- PC2, the Full round-key selection, 56 to 48 (R506). -/
def tablePC2 : List Nat :=
  [13, 16, 10, 23,  0,  4] ++
  [ 2, 27, 14,  5, 20,  9] ++
  [22, 18, 11,  3, 25,  7] ++
  [15,  6, 26, 19, 12,  1] ++
  [40, 51, 30, 36, 46, 54] ++
  [29, 39, 50, 44, 32, 47] ++
  [43, 48, 38, 55, 33, 52] ++
  [45, 41, 49, 35, 28, 31]

/-- TE, the Toy expansion, 6 to 8 (R507). -/
def tableTE : List Nat := [0, 1, 3, 2, 3, 2, 4, 5]

/-- TP, the Toy S-box output permutation: the identity, 6 to 6 (R508). -/
def tableTP : List Nat := [0, 1, 2, 3, 4, 5]

/-- TPC1, the Toy key permutation: the identity, 9 to 9 (R509). -/
def tableTPC1 : List Nat := [0, 1, 2, 3, 4, 5, 6, 7, 8]

/-- TPC2, the Toy round-key selection, 9 to 8 (R510). -/
def tableTPC2 : List Nat := [0, 1, 2, 3, 4, 5, 6, 7]

/-- The required input length and the contents of the fixed table with id `t` (30_encoding.md R304);
`none` for the reserved ids and for the user table. -/
def fixedTable (t : Nat) : Option (Nat × List Nat) :=
  match t with
  | 0 => some (64, tableIP)
  | 1 => some (64, tableFP)
  | 2 => some (32, tableE)
  | 3 => some (32, tableP)
  | 4 => some (64, tablePC1)
  | 5 => some (56, tablePC2)
  | 6 => some (6, tableTE)
  | 7 => some (6, tableTP)
  | 8 => some (9, tableTPC1)
  | 9 => some (9, tableTPC2)
  | _ => none

/-- `SHIFT[1..16]`, the Full rotation amounts (44_key_schedule.md R601). -/
def shiftTable : List Nat := [1, 1, 2, 2, 2, 2, 2, 2, 1, 2, 2, 2, 2, 2, 2, 1]

end Sys2Proof.Machine
end

