-- ==== Sys2Proof/Machine/Variants.lean ====
section
/-! DEFINITION. The parameters that each variant fixes (00_scope.md R6). -/

namespace Sys2Proof.Machine

/-- `h`, the half-block width. -/
def halfWidth : Variant → Nat
  | .full => 32
  | .toy => 6

/-- `B = 2h`, the block width. -/
def blockWidth (v : Variant) : Nat := 2 * halfWidth v

/-- `KR`, the required raw-key width. -/
def rawKeyWidth : Variant → Nat
  | .full => 64
  | .toy => 9

/-- `KW`, the round-key width. -/
def roundKeyWidth : Variant → Nat
  | .full => 48
  | .toy => 8

/-- `NB`, the number of S-boxes. -/
def boxCount : Variant → Nat
  | .full => 8
  | .toy => 2

/-- `SI`, the S-box input width. -/
def boxIn : Variant → Nat
  | .full => 6
  | .toy => 4

/-- `SO`, the S-box output width. -/
def boxOut : Variant → Nat
  | .full => 4
  | .toy => 3

end Sys2Proof.Machine
end

