-- ==== Sys2Proof/Machine/Operands.lean ====
section
/-! DEFINITION. What a command reads: the registers seen as the sequences and tables the rules name. -/

namespace Sys2Proof.Machine

/-- `N`, the round count (00_scope.md R8). -/
def State.rounds (s : State) : Nat := s.ctrl.nrounds.toNat

/-- `seq_h(x[L])` (10_state.md R138). -/
def State.leftSeq (s : State) : Bits := seqOf (halfWidth s.ctrl.variant) s.halfL

/-- `seq_h(x[R])` (10_state.md R138). -/
def State.rightSeq (s : State) : Bits := seqOf (halfWidth s.ctrl.variant) s.halfR

/-- The bit-vector operand `seq_BV_LEN(BV)` (10_state.md R139). -/
def State.bvSeq (s : State) : Bits := seqOf s.bvLen.toNat s.bv

/-- `seq_KR(x[KEY])`, the first `KR` raw-key bits (44_key_schedule.md R600). -/
def State.rawKeySeq (s : State) : Bits := seqOf (rawKeyWidth s.ctrl.variant) s.key

/-- `RKF[i]` for `1 <= i <= 16`; any other index names no entry and reads 0 (10_state.md R137, R151). -/
def State.roundKeyWord (s : State) (i : Nat) : BitVec 48 :=
  if i = 0 then 0 else (s.rkf[i - 1]?).getD 0

/-- `RK[i] = seq_KW(RKF[i])` (45_feistel.md R652). -/
def State.roundKeySeq (s : State) (i : Nat) : Bits :=
  seqOf (roundKeyWidth s.ctrl.variant) (s.roundKeyWord i)

/-- `RK[1..N]`, in increasing round order (45_feistel.md R653). -/
def State.roundKeySeqs (s : State) : List Bits :=
  (List.range s.rounds).map fun j => s.roundKeySeq (j + 1)

/-- The user table `U = [UTAB[0], ..., UTAB[m-1]]`, `m = UTAB_LEN` (42_permutation.md R512; log 21). -/
def State.userTable (s : State) : List Nat :=
  (s.utab.toList.take s.utabLen.toNat).map BitVec.toNat

/-- The table that `PERM t` applies (30_encoding.md R304); `none` for a reserved id. -/
def State.permTable (s : State) (t : Nat) : Option (List Nat) :=
  if t = 15 then some s.userTable else (fixedTable t).map Prod.snd

/-- The shape check of `PERM t` (42_permutation.md R515): the exact input width of a fixed table, and
`m = 0` or `BV_LEN > max(U)` for the user table. -/
def State.permShapeOk (s : State) (t : Nat) : Bool :=
  if t = 15 then
    decide (s.userTable = []) || decide (s.userTable.foldl max 0 < s.bvLen.toNat)
  else
    match fixedTable t with
    | some (width, _) => decide (s.bvLen.toNat = width)
    | none => false

/-- A length field (`KEY_LEN`, `BV_LEN`, `UTAB_LEN`): bits `[6:0]` of the written word, a value above 64
stored as 64 (10_state.md R134, R139, R147; log 7). -/
def clampLen (w : Word) : BitVec 7 :=
  let v := w.extractLsb' 0 7
  if 64 < v.toNat then 64 else v

/-- The low word of a 64-bit register pair (20_memory.md R205). -/
def loWord (v : BitVec 64) : Word := v.extractLsb' 0 32

/-- The high word of a 64-bit register pair (20_memory.md R205). -/
def hiWord (v : BitVec 64) : Word := v.extractLsb' 32 32

/-- A 64-bit register pair with its low word replaced. -/
def withLo (v : BitVec 64) (w : Word) : BitVec 64 := hiWord v ++ w

/-- A 64-bit register pair with its high word replaced. -/
def withHi (v : BitVec 64) (w : Word) : BitVec 64 := w ++ loWord v

end Sys2Proof.Machine
end

