-- ==== Sys2Proof/Syntax.lean ====
section
/-! DEFINITION. The commands of the block, one constructor per row of spec/opcode_table.json. -/

namespace Sys2Proof

/-- A command (30_encoding.md R303). An argument is the unsigned integer `ARG` of R301. -/
inductive Instr where
  /-- no operation (46_system.md R700) -/
  | nop
  /-- soft reset (46_system.md R705) -/
  | srst
  /-- derive the round keys (44_key_schedule.md R600) -/
  | kexp
  /-- one forward round with round key `i` (45_feistel.md R660) -/
  | round (i : Nat)
  /-- encrypt the block in L, R (45_feistel.md R670) -/
  | encb
  /-- decrypt the block in L, R (45_feistel.md R675) -/
  | decb
  /-- exchange L and R (45_feistel.md R665) -/
  | swap
  /-- Feistel function of R with round key `i` (45_feistel.md R655) -/
  | ffn (i : Nat)
  /-- apply table `t` to BV (42_permutation.md R515) -/
  | perm (t : Nat)
  /-- substitute BV through box `k` (43_sbox.md R560) -/
  | sbox (k : Nat)
  /-- stream-encrypt a message (41_chunker_stream.md R455) -/
  | msge
  /-- stream-decrypt a message (41_chunker_stream.md R456) -/
  | msgd
  /-- abort the message, flush the FIFOs (41_chunker_stream.md R470) -/
  | mabt
  /-- `n` bytes from the input FIFO to BV (40_codec.md R410) -/
  | unpk (n : Nat)
  /-- BV to bytes into the output FIFO (40_codec.md R415) -/
  | pack
deriving DecidableEq, Repr

end Sys2Proof
end

