-- ==== Sys2Proof/WellFormed.lean ====
section
/-! DEFINITION. Which terms of `Instr` a command word can hold. -/

namespace Sys2Proof

/-- `ARG` is an 8-bit field (30_encoding.md R301). -/
def argFits (a : Nat) : Bool := decide (a < 256)

/-- A command is well formed when its argument fits the field. An argument outside the command's
range is still a legal encoding, which fails at execution (30_encoding.md R330). -/
def wellFormed (i : Instr) : Bool :=
  match i with
  | .nop | .srst | .kexp | .encb | .decb | .swap | .msge | .msgd | .mabt | .pack => true
  | .round a | .ffn a | .perm a | .sbox a | .unpk a => argFits a

/-- `wellFormed` as a proposition. -/
abbrev WellFormed (i : Instr) : Prop := wellFormed i = true

end Sys2Proof
end

