-- ==== Sys2Proof/Decode.lean ====
section
/-! DEFINITION. Command words: the fields of format C, the decoder, the encoder (30_encoding.md R300-R303). -/

namespace Sys2Proof

/-- Why a command word is illegal (30_encoding.md R320, check 1). -/
inductive DecodeReject where
  /-- `w[31:16] != 0` (R302) -/
  | reservedBits
  /-- the opcode is one of the 241 unassigned values (R303) -/
  | reservedOpcode
  /-- a nonzero `ARG` on a command that takes none (R301) -/
  | unusedArgument
deriving DecidableEq, Repr

/-- What a command word decodes to. -/
inductive Decoded where
  | command (i : Instr)
  | illegal (r : DecodeReject)
deriving DecidableEq, Repr

/-- `OPC = w[7:0]` (R300). -/
def opcField (w : Word) : Nat := (w.extractLsb' 0 8).toNat

/-- `ARG = w[15:8]`, unsigned (R301). -/
def argField (w : Word) : Nat := (w.extractLsb' 8 8).toNat

/-- `RSV = w[31:16]` (R300). -/
def rsvField (w : Word) : Nat := (w.extractLsb' 16 16).toNat

/-- A command that takes no argument needs `ARG = 0` (R301). -/
def withoutArg (i : Instr) (a : Nat) : Decoded :=
  if a = 0 then .command i else .illegal .unusedArgument

/-- The opcode map of R303. -/
def decodeOpcode (op a : Nat) : Decoded :=
  match op with
  | 0x00 => withoutArg .nop a
  | 0x01 => withoutArg .srst a
  | 0x10 => withoutArg .kexp a
  | 0x20 => .command (.round a)
  | 0x21 => withoutArg .encb a
  | 0x22 => withoutArg .decb a
  | 0x23 => withoutArg .swap a
  | 0x24 => .command (.ffn a)
  | 0x30 => .command (.perm a)
  | 0x31 => .command (.sbox a)
  | 0x40 => withoutArg .msge a
  | 0x41 => withoutArg .msgd a
  | 0x42 => withoutArg .mabt a
  | 0x50 => .command (.unpk a)
  | 0x51 => withoutArg .pack a
  | _ => .illegal .reservedOpcode

/-- The decoder: total on every 32-bit word (R300-R303, R330). -/
def decode (w : Word) : Decoded :=
  if rsvField w = 0 then decodeOpcode (opcField w) (argField w) else .illegal .reservedBits

/-- The opcode of a command (R303). -/
def opcodeOf : Instr → Nat
  | .nop => 0x00
  | .srst => 0x01
  | .kexp => 0x10
  | .round _ => 0x20
  | .encb => 0x21
  | .decb => 0x22
  | .swap => 0x23
  | .ffn _ => 0x24
  | .perm _ => 0x30
  | .sbox _ => 0x31
  | .msge => 0x40
  | .msgd => 0x41
  | .mabt => 0x42
  | .unpk _ => 0x50
  | .pack => 0x51

/-- The `ARG` of a command; 0 where it is unused (R301). -/
def argOf : Instr → Nat
  | .round a | .ffn a | .perm a | .sbox a | .unpk a => a
  | .nop | .srst | .kexp | .encb | .decb | .swap | .msge | .msgd | .mabt | .pack => 0

/-- The encoder: `ARG << 8 | OPC` with `RSV = 0` (R303). -/
def encode (i : Instr) : Word := BitVec.ofNat 32 (argOf i % 256 * 256 + opcodeOf i)

/-- The command word whose low `nbits` bits are those of `w` and whose other bits are 0. -/
def commandWord (nbits w : Nat) : Word := BitVec.ofNat 32 (w % 2 ^ nbits)

/-- The instruction the decoder reads from a word numbered as spec/opcode_table.json numbers it: a
command is one 32-bit word, so the table's bit numbers are the word's own (R300). -/
def decodeTableWord (nbits w : Nat) : Option Instr :=
  if nbits ≤ 32 then
    match decode (commandWord nbits w) with
    | .command i => some i
    | .illegal _ => none
  else none

end Sys2Proof
end

