-- ==== Sys2Proof/Machine/Ops.lean ====
section
/-! DEFINITION. The operations that commands and accesses share: raising an error (the block's exception
entry) and clearing it (the return), completing a command, running a command's checks, writing results,
reset. -/

namespace Sys2Proof.Machine

/-- What one step of the machine answers. -/
abbrev StepResult := Host.Outcome State Fault Refusal

/-- `raise Error(code, info)` with source `src`: the first error is recorded, a later one only sets
`ERR_MULTI` (60_exceptions.md R810). This is the whole of "trap entry" (R850). -/
def raiseError (code : ErrorCode) (src : ErrorSource) (info : Word) (s : State) : State :=
  { s with error :=
      match s.error with
      | none => some { code := code, src := src, info := info, multi := false }
      | some e => some { e with multi := true } }

/-- A host write of `w` to `STATUS` (10_state.md R130). Writing 1 to bit 9 is the "return" from an error
(60_exceptions.md R851). -/
def writeStatus (w : Word) (s : State) : State :=
  { s with
    done := s.done && !w.getLsbD 8
    error :=
      if w.getLsbD 9 then none
      else if w.getLsbD 10 then s.error.map fun e => { e with multi := false }
      else s.error }

/-- The end of a command's execution: `PENDING` becomes invalid and `DONE` becomes 1
(30_encoding.md R311, 10_state.md R125). -/
def complete (s : State) : State := { s with pending := none, done := true }

/-- A command that fails in execution: the error is recorded with the command word, and nothing else
changes but the completion (30_encoding.md R311, 60_exceptions.md R810, R811). -/
def failCommand (code : ErrorCode) (w : Word) (s : State) : State :=
  complete (raiseError code .command w s)

/-- The first failing check of a list of (fails, error) pairs (30_encoding.md R320). -/
def firstFailure : List (Bool × ErrorCode) → Option ErrorCode
  | [] => none
  | (fails, code) :: rest => if fails then some code else firstFailure rest

/-- A command's execution step: its checks in order, then its effect (30_encoding.md R311, R320).
`ERR_INFO` receives the command word, which is `encode i` for a decoded command (log 14). -/
def runChecked (i : Instr) (checks : List (Bool × ErrorCode)) (effect : State) (s : State) :
    StepResult :=
  match firstFailure checks with
  | some code => .next (failCommand code (encode i) s)
  | none => .next effect

/-- Writes a result sequence: `RES <- val(o)`, `RES_LEN <- len(o)` (10_state.md R140). -/
def writeRes (o : Bits) (s : State) : State :=
  { s with res := regOf 64 o, resLen := BitVec.ofNat 7 o.length }

/-- Writes the half-blocks: `L <- val(p.1)`, `R <- val(p.2)` (10_state.md R138). -/
def writeHalves (p : Bits × Bits) (s : State) : State :=
  { s with halfL := regOf 32 p.1, halfR := regOf 32 p.2 }

/-- Every piece of the block's state takes its reset value (10_state.md R170, 70_reset_and_hazards.md
R900). The parameters are constants; the agenda, the last read word and the count of free draws are not
the block's (log 6). -/
def resetBlock (s : State) : State :=
  { State.resetWith s.params with
    agenda := s.agenda, readData := s.readData, freeCount := s.freeCount }

end Sys2Proof.Machine
end

