-- ==== Sys2Proof/Machine/Codec.lean ====
section
/-! DEFINITION. bitwise_codec: `to_bits`, `from_bits`, and the commands `UNPK` and `PACK` (40_codec.md). -/

namespace Sys2Proof.Machine

/-- `to_bits(m)`: the bits of each byte, least significant first (R400). -/
def toBits (m : List Byte) : Bits := m.flatMap fun b => seqOf 8 b

/-- `from_bits(s)`: byte `j` is the value of elements `8j` to `8j+7` (R401). -/
def fromBits (s : Bits) : List Byte :=
  (List.range (s.length / 8)).map fun j => regOf 8 ((s.drop (8 * j)).take 8)

/-- The effect of `UNPK n` (R410). -/
def unpkEffect (n : Nat) (s : State) : State :=
  { s with
    bv := regOf 64 (toBits (s.inFifo.take n))
    bvLen := BitVec.ofNat 7 (8 * n)
    inFifo := s.inFifo.drop n }

/-- `UNPK n`: unpack `n` bytes from the input FIFO into `BV` (R410). -/
def execUnpk (n : Nat) (s : State) : StepResult :=
  runChecked (.unpk n)
    [(!(decide (1 ≤ n) && decide (n ≤ 8)), .badArgument),
     (decide (s.inFifo.length < n), .fifoUnderflow)]
    (complete (unpkEffect n s)) s

/-- The effect of `PACK` (R415). -/
def packEffect (s : State) : State := { s with outFifo := s.outFifo ++ fromBits s.bvSeq }

/-- `PACK`: pack `BV` into bytes and push them into the output FIFO (R415). -/
def execPack (s : State) : StepResult :=
  runChecked .pack
    [(decide (s.bvLen.toNat % 8 ≠ 0), .length),
     (decide (s.params.outDepth - s.outFifo.length < s.bvLen.toNat / 8), .fifoOverflow)]
    (complete (packEffect s)) s

end Sys2Proof.Machine
end

