-- ==== Sys2Proof/Machine/SBoxes.lean ====
section
/-! DEFINITION. The S-boxes and their lookup (43_sbox.md R550-R556; log 11). -/

namespace Sys2Proof.Machine

/-- Full S1, box index 0, rows 0 to 3 (R551). -/
def fullS1 : List (List Nat) :=
  [[14,  4, 13,  1,  2, 15, 11,  8,  3, 10,  6, 12,  5,  9,  0,  7],
   [ 0, 15,  7,  4, 14,  2, 13,  1, 10,  6, 12, 11,  9,  5,  3,  8],
   [ 4,  1, 14,  8, 13,  6,  2, 11, 15, 12,  9,  7,  3, 10,  5,  0],
   [15, 12,  8,  2,  4,  9,  1,  7,  5, 11,  3, 14, 10,  0,  6, 13]]

/-- Full S2, box index 1, rows 0 to 3 (R551). -/
def fullS2 : List (List Nat) :=
  [[15,  1,  8, 14,  6, 11,  3,  4,  9,  7,  2, 13, 12,  0,  5, 10],
   [ 3, 13,  4,  7, 15,  2,  8, 14, 12,  0,  1, 10,  6,  9, 11,  5],
   [ 0, 14,  7, 11, 10,  4, 13,  1,  5,  8, 12,  6,  9,  3,  2, 15],
   [13,  8, 10,  1,  3, 15,  4,  2, 11,  6,  7, 12,  0,  5, 14,  9]]

/-- Full S3, box index 2, rows 0 to 3 (R551). -/
def fullS3 : List (List Nat) :=
  [[10,  0,  9, 14,  6,  3, 15,  5,  1, 13, 12,  7, 11,  4,  2,  8],
   [13,  7,  0,  9,  3,  4,  6, 10,  2,  8,  5, 14, 12, 11, 15,  1],
   [13,  6,  4,  9,  8, 15,  3,  0, 11,  1,  2, 12,  5, 10, 14,  7],
   [ 1, 10, 13,  0,  6,  9,  8,  7,  4, 15, 14,  3, 11,  5,  2, 12]]

/-- Full S4, box index 3, rows 0 to 3 (R551). -/
def fullS4 : List (List Nat) :=
  [[ 7, 13, 14,  3,  0,  6,  9, 10,  1,  2,  8,  5, 11, 12,  4, 15],
   [13,  8, 11,  5,  6, 15,  0,  3,  4,  7,  2, 12,  1, 10, 14,  9],
   [10,  6,  9,  0, 12, 11,  7, 13, 15,  1,  3, 14,  5,  2,  8,  4],
   [ 3, 15,  0,  6, 10,  1, 13,  8,  9,  4,  5, 11, 12,  7,  2, 14]]

/-- Full S5, box index 4, rows 0 to 3 (R551). -/
def fullS5 : List (List Nat) :=
  [[ 2, 12,  4,  1,  7, 10, 11,  6,  8,  5,  3, 15, 13,  0, 14,  9],
   [14, 11,  2, 12,  4,  7, 13,  1,  5,  0, 15, 10,  3,  9,  8,  6],
   [ 4,  2,  1, 11, 10, 13,  7,  8, 15,  9, 12,  5,  6,  3,  0, 14],
   [11,  8, 12,  7,  1, 14,  2, 13,  6, 15,  0,  9, 10,  4,  5,  3]]

/-- Full S6, box index 5, rows 0 to 3 (R551). -/
def fullS6 : List (List Nat) :=
  [[12,  1, 10, 15,  9,  2,  6,  8,  0, 13,  3,  4, 14,  7,  5, 11],
   [10, 15,  4,  2,  7, 12,  9,  5,  6,  1, 13, 14,  0, 11,  3,  8],
   [ 9, 14, 15,  5,  2,  8, 12,  3,  7,  0,  4, 10,  1, 13, 11,  6],
   [ 4,  3,  2, 12,  9,  5, 15, 10, 11, 14,  1,  7,  6,  0,  8, 13]]

/-- Full S7, box index 6, rows 0 to 3 (R551). -/
def fullS7 : List (List Nat) :=
  [[ 4, 11,  2, 14, 15,  0,  8, 13,  3, 12,  9,  7,  5, 10,  6,  1],
   [13,  0, 11,  7,  4,  9,  1, 10, 14,  3,  5, 12,  2, 15,  8,  6],
   [ 1,  4, 11, 13, 12,  3,  7, 14, 10, 15,  6,  8,  0,  5,  9,  2],
   [ 6, 11, 13,  8,  1,  4, 10,  7,  9,  5,  0, 15, 14,  2,  3, 12]]

/-- Full S8, box index 7, rows 0 to 3 (R551). -/
def fullS8 : List (List Nat) :=
  [[13,  2,  8,  4,  6, 15, 11,  1, 10,  9,  3, 14,  5,  0, 12,  7],
   [ 1, 15, 13,  8, 10,  3,  7,  4, 12,  5,  6, 11,  0, 14,  9,  2],
   [ 7, 11,  4,  1,  9, 12, 14,  2,  0,  6, 10, 13, 15,  3,  5,  8],
   [ 2,  1, 14,  7,  4, 10,  8, 13, 15, 12,  9,  0,  3,  5,  6, 11]]

/-- Toy S1, box index 0, rows 0 and 1 (R553). -/
def toyS1 : List (List Nat) :=
  [[5, 2, 1, 6, 3, 4, 7, 0],
   [1, 4, 6, 2, 0, 7, 5, 3]]

/-- Toy S2, box index 1, rows 0 and 1 (R553). -/
def toyS2 : List (List Nat) :=
  [[4, 0, 6, 5, 7, 1, 3, 2],
   [5, 3, 0, 7, 6, 2, 1, 4]]

/-- The bank that `CTRL.VARIANT` selects (R550). -/
def sboxBank : Variant → List (List (List Nat))
  | .full => [fullS1, fullS2, fullS3, fullS4, fullS5, fullS6, fullS7, fullS8]
  | .toy => [toyS1, toyS2]

/-- `S_k[row][col]` (R550). -/
def sboxEntry (v : Variant) (k row col : Nat) : Nat :=
  (((sboxBank v).getD k []).getD row []).getD col 0

/-- The row selector of a box input: first and last bit for Full, first bit for Toy (R552). -/
def sboxRow (v : Variant) (s : Bits) : Nat :=
  match v with
  | .full => 2 * (s.getD 0 false).toNat + (s.getD 5 false).toNat
  | .toy => (s.getD 0 false).toNat

/-- The column selector of a box input: the remaining bits, first one most significant (R552). -/
def sboxCol (v : Variant) (s : Bits) : Nat :=
  match v with
  | .full => msbnum ((s.drop 1).take 4)
  | .toy => msbnum ((s.drop 1).take 3)

/-- `substitute(k, s)` of R555: the entry written most significant bit first (R554). -/
def substitute (v : Variant) (k : Nat) (s : Bits) : Bits :=
  msbseq (boxOut v) (sboxEntry v k (sboxRow v s) (sboxCol v s))

end Sys2Proof.Machine
end

