-- ==== Sys2Proof/Machine/Feistel.lean ====
section
/-! DEFINITION. The Feistel datapath: `f`, rounds, blocks, and the commands `FFN`, `ROUND`, `SWAP`, `ENCB`
and `DECB` (45_feistel.md). -/

namespace Sys2Proof.Machine

/-- The expansion table: E or TE (R650, R651). -/
def expansionTable : Variant → List Nat
  | .full => tableE
  | .toy => tableTE

/-- The S-box output permutation: P or TP (R650, R651). -/
def outputTable : Variant → List Nat
  | .full => tableP
  | .toy => tableTP

/-- The S-box step: group `k` of the expanded sequence goes through box `k`, the outputs in box order
(R650, R651). -/
def sboxLayer (v : Variant) (x : Bits) : Bits :=
  (List.range (boxCount v)).flatMap fun k => substitute v k ((x.drop (boxIn v * k)).take (boxIn v))

/-- The Feistel function `f(Rs, K)` (R650, R651). -/
def feistel (v : Variant) (rs k : Bits) : Bits :=
  applyTable (sboxLayer v (xorBits (applyTable rs (expansionTable v)) k)) (outputTable v)

/-- `round_forward(Ls, Rs, i)` with the round key `k = RK[i]` (R652). -/
def roundForward (v : Variant) (k : Bits) (p : Bits × Bits) : Bits × Bits :=
  (p.2, xorBits p.1 (feistel v p.2 k))

/-- The rounds with the given keys, in list order. -/
def runRounds (v : Variant) (keys : List Bits) (p : Bits × Bits) : Bits × Bits :=
  keys.foldl (fun q k => roundForward v k q) p

/-- `enc_block`: the rounds in increasing order, then the swap (R653). `keys` is `RK[1..N]`. -/
def encBlock (v : Variant) (keys : List Bits) (p : Bits × Bits) : Bits × Bits :=
  (runRounds v keys p).swap

/-- `dec_block`: the rounds in decreasing order, then the swap (R654). `keys` is `RK[1..N]`. -/
def decBlock (v : Variant) (keys : List Bits) (p : Bits × Bits) : Bits × Bits :=
  (runRounds v keys.reverse p).swap

/-- The two half-blocks as the engine reads them (10_state.md R138). -/
def State.halves (s : State) : Bits × Bits := (s.leftSeq, s.rightSeq)

/-- Check 3 of 30_encoding.md R320: the command needs a valid key schedule. -/
def keyCheck (s : State) : Bool × ErrorCode := (!s.keyValid, .keyNotReady)

/-- Check 4 of 30_encoding.md R320: the round index is in 1..N. -/
def roundCheck (i : Nat) (s : State) : Bool × ErrorCode :=
  (!(decide (1 ≤ i) && decide (i ≤ s.rounds)), .badRoundIndex)

/-- The effect of `FFN i` (R655). -/
def ffnEffect (i : Nat) (s : State) : State :=
  writeRes (feistel s.ctrl.variant s.rightSeq (s.roundKeySeq i)) s

/-- `FFN i`: the Feistel function of `R` with round key `i` (R655). -/
def execFfn (i : Nat) (s : State) : StepResult :=
  runChecked (.ffn i) [keyCheck s, roundCheck i s] (complete (ffnEffect i s)) s

/-- The effect of `ROUND i` (R660). -/
def roundEffect (i : Nat) (s : State) : State :=
  writeHalves (roundForward s.ctrl.variant (s.roundKeySeq i) s.halves) s

/-- `ROUND i`: one forward round with round key `i` (R660). -/
def execRound (i : Nat) (s : State) : StepResult :=
  runChecked (.round i) [keyCheck s, roundCheck i s] (complete (roundEffect i s)) s

/-- `SWAP`: exchange `L` and `R`, low `h` bits (R665). -/
def execSwap (s : State) : StepResult := .next (complete (writeHalves s.halves.swap s))

/-- The effect of `ENCB` (R670). -/
def encbEffect (s : State) : State :=
  writeHalves (encBlock s.ctrl.variant s.roundKeySeqs s.halves) s

/-- `ENCB`: encrypt the block in `(L, R)` (R670). -/
def execEncb (s : State) : StepResult :=
  runChecked .encb [keyCheck s] (complete (encbEffect s)) s

/-- The effect of `DECB` (R675). -/
def decbEffect (s : State) : State :=
  writeHalves (decBlock s.ctrl.variant s.roundKeySeqs s.halves) s

/-- `DECB`: decrypt the block in `(L, R)` (R675). -/
def execDecb (s : State) : StepResult :=
  runChecked .decb [keyCheck s] (complete (decbEffect s)) s

end Sys2Proof.Machine
end

