-- ==== Sys2Proof/Machine/KeySchedule.lean ====
section
/-! DEFINITION. key_schedule_rotator: the schedules and the command `KEXP` (44_key_schedule.md). -/

namespace Sys2Proof.Machine

/-- The loop of R602: each round rotates the halves the previous round left, and selects through PC2. -/
def fullRoundKeys : List Nat → Bits → Bits → List Bits
  | [], _, _ => []
  | k :: ks, c, d =>
    let c' := rotl c k
    let d' := rotl d k
    applyTable (c' ++ d') tablePC2 :: fullRoundKeys ks c' d'

/-- `full_schedule(k, N)` (R602). -/
def fullSchedule (k : Bits) (n : Nat) : List Bits :=
  let cd := applyTable k tablePC1
  fullRoundKeys (shiftTable.take n) (cd.take 28) (cd.drop 28)

/-- `toy_schedule(k, N)`: round `i = j + 1` rotates by `TOY_R1_SHIFT + (i - 1)` (R604). -/
def toySchedule (r1Shift : Nat) (k : Bits) (n : Nat) : List Bits :=
  (List.range n).map fun j => applyTable (rotl (applyTable k tableTPC1) (r1Shift + j)) tableTPC2

/-- `rk[1..N]` of a variant's schedule (R600). -/
def schedule (p : Params) (v : Variant) (k : Bits) (n : Nat) : List Bits :=
  match v with
  | .full => fullSchedule k n
  | .toy => toySchedule p.toyR1Shift k n

/-- `RKF[i] = val(rk[i])` for `1 <= i <= N`, and 0 above (R605). -/
def roundKeyFile (rk : List Bits) : Vector (BitVec 48) 16 :=
  Vector.ofFn fun i =>
    match rk[i.val]? with
    | some k => regOf 48 k
    | none => 0

/-- The round-key file that the current key, variant and round count determine (R600, R605). -/
def State.derivedKeys (s : State) : Vector (BitVec 48) 16 :=
  roundKeyFile (schedule s.params s.ctrl.variant s.rawKeySeq s.rounds)

/-- The effect of `KEXP` (R600, R605). -/
def kexpEffect (s : State) : State := { s with rkf := s.derivedKeys, keyValid := true }

/-- `KEXP`: derive the round keys for the current key, variant and round count (R600). -/
def execKexp (s : State) : StepResult :=
  runChecked .kexp
    [(!(decide (1 ≤ s.rounds) && decide (s.rounds ≤ 16)), .config),
     (decide (s.keyLen.toNat < rawKeyWidth s.ctrl.variant), .keyLength)]
    (complete (kexpEffect s)) s

end Sys2Proof.Machine
end

