-- ==== Sys2Proof/Machine/Permutation.lean ====
section
/-! DEFINITION. permutation_mux_tree: the command `PERM` (42_permutation.md). -/

namespace Sys2Proof.Machine

/-- The effect of `PERM t`: `RES` receives the table applied to the bit-vector operand (R515). -/
def permEffect (t : Nat) (s : State) : State :=
  writeRes (applyTable s.bvSeq ((s.permTable t).getD [])) s

/-- `PERM t`: apply table `t` to the bit-vector operand (R515). -/
def execPerm (t : Nat) (s : State) : StepResult :=
  runChecked (.perm t)
    [((s.permTable t).isNone, .badArgument),
     (!s.permShapeOk t, .shape)]
    (complete (permEffect t s)) s

end Sys2Proof.Machine
end

