-- ==== Sys2Proof/Machine/Flags.lean ====
section
/-! DEFINITION. The flags: every view of the state that `STATUS`, `ERR_INFO`, `FIFO_STAT`, `CTRL`, `PARAM`
and `IRQ` show. -/

namespace Sys2Proof.Machine

/-- A one-bit field at bit `pos` of a register. -/
def bitAt (b : Bool) (pos : Nat) : Word := (BitVec.ofBool b).setWidth 32 <<< pos

/-- A field at bit `pos` of a register. -/
def fieldAt {w : Nat} (v : BitVec w) (pos : Nat) : Word := v.setWidth 32 <<< pos

/-- `STATUS.BUSY = PENDING.valid OR MSG_ACTIVE` (10_state.md R121). -/
def State.busy (s : State) : Bool := s.pending.isSome || s.stream.active

/-- `level(OUT) = OUT_DEPTH` (10_state.md R143). -/
def State.outFull (s : State) : Bool := s.outFifo.length == s.params.outDepth

/-- `level(IN) = IN_DEPTH` (10_state.md R143). -/
def State.inFull (s : State) : Bool := s.inFifo.length == s.params.inDepth

/-- `STATUS.OUT_STALL` (10_state.md R124; log 17). -/
def State.outStall (s : State) : Bool :=
  s.stream.active && decide (8 ≤ s.stream.obuf.length) && s.outFull

/-- `STATUS.IN_WAIT` (10_state.md R124). -/
def State.inWait (s : State) : Bool :=
  s.stream.active && decide (s.stream.obuf.length < 8)
    && decide (s.stream.ibuf.length < blockWidth s.ctrl.variant)
    && decide (0 < s.stream.bytesLeft) && s.inFifo.isEmpty

/-- The number of an error code (60_exceptions.md R800). -/
def errorNumber : ErrorCode → BitVec 4
  | .shape => 1
  | .length => 2
  | .keyLength => 3
  | .keyNotReady => 4
  | .badRoundIndex => 5
  | .badArgument => 6
  | .illegalCommand => 7
  | .sequence => 8
  | .fifoOverflow => 9
  | .fifoUnderflow => 10
  | .config => 11

/-- `STATUS.ERR` (10_state.md R126). -/
def State.errFlag (s : State) : Bool := s.error.isSome

/-- `STATUS.ERR_MULTI` (10_state.md R127). -/
def State.errMulti (s : State) : Bool :=
  match s.error with
  | some e => e.multi
  | none => false

/-- `STATUS.ERRCODE`, 0 when `ERR = 0` (10_state.md R128). -/
def State.errCode (s : State) : BitVec 4 :=
  match s.error with
  | some e => errorNumber e.code
  | none => 0

/-- `STATUS.ERR_SRC`, 0 when `ERR = 0` (10_state.md R129). -/
def State.errSrc (s : State) : Bool :=
  match s.error with
  | some e => decide (e.src = .access)
  | none => false

/-- `ERR_INFO`, 0 when `ERR = 0` (10_state.md R126, R132). -/
def State.errInfo (s : State) : Word :=
  match s.error with
  | some e => e.info
  | none => 0

/-- The value a read of `STATUS` returns (10_state.md R120). -/
def State.statusWord (s : State) : Word :=
  bitAt s.busy 0 ||| bitAt s.keyValid 1 ||| bitAt s.stream.active 2 ||| bitAt s.stream.modeDec 3
    ||| bitAt s.outStall 4 ||| bitAt s.inWait 5
    ||| bitAt s.done 8 ||| bitAt s.errFlag 9 ||| bitAt s.errMulti 10
    ||| fieldAt s.errCode 12 ||| bitAt s.errSrc 16

/-- The value a read of `FIFO_STAT` returns (10_state.md R143). -/
def State.fifoStatWord (s : State) : Word :=
  fieldAt (BitVec.ofNat 8 s.inFifo.length) 0 ||| fieldAt (BitVec.ofNat 8 s.outFifo.length) 8
    ||| bitAt s.inFull 16 ||| bitAt s.inFifo.isEmpty 17
    ||| bitAt s.outFull 18 ||| bitAt s.outFifo.isEmpty 19

/-- `CTRL.VARIANT` as a bit (10_state.md R111). -/
def variantBit : Variant → Bool
  | .full => false
  | .toy => true

/-- `CTRL.PAD_MODE` as a bit (10_state.md R112). -/
def padModeBit : PadMode → Bool
  | .byte => false
  | .bit => true

/-- The value a read of `CTRL` returns; reserved bits read as zero (10_state.md R110, R118). -/
def ctrlWord (c : Ctrl) : Word :=
  bitAt (variantBit c.variant) 0 ||| bitAt (padModeBit c.padMode) 1 ||| bitAt c.padBit 2
    ||| bitAt c.ieDone 3 ||| bitAt c.ieErr 4 ||| fieldAt c.nrounds 8 ||| fieldAt c.padByte 16

/-- The fields that a write of `w` to `CTRL` stores; reserved bits are ignored (10_state.md R110-R118). -/
def ctrlOfWord (w : Word) : Ctrl :=
  { variant := if w.getLsbD 0 then .toy else .full
    padMode := if w.getLsbD 1 then .bit else .byte
    padBit := w.getLsbD 2
    ieDone := w.getLsbD 3
    ieErr := w.getLsbD 4
    nrounds := w.extractLsb' 8 5
    padByte := w.extractLsb' 16 8 }

/-- The value a read of `PARAM` returns (10_state.md R102). -/
def paramWord (p : Params) : Word :=
  fieldAt (BitVec.ofNat 8 p.inDepth) 0 ||| fieldAt (BitVec.ofNat 8 p.outDepth) 8
    ||| fieldAt (BitVec.ofNat 1 p.toyR1Shift) 16

/-- The interrupt output `IRQ` (60_exceptions.md R830; log 18). -/
def State.irq (s : State) : Bool := (s.done && s.ctrl.ieDone) || (s.errFlag && s.ctrl.ieErr)

end Sys2Proof.Machine
end

