-- ==== Sys2Proof/Machine/Stream.lean ====
section
/-! DEFINITION. message_chunker_fifo: padding, the commands `MSGE`, `MSGD` and `MABT`, and the stream's
micro-steps (41_chunker_stream.md). -/

namespace Sys2Proof.Machine

/-- The padding amount for a message of `n` bytes, in filler bytes (BYTE) or filler bits (BIT) (R453).
In BYTE mode the least `k` is below `B`. -/
def padAmount (v : Variant) (m : PadMode) (n : Nat) : Nat :=
  match m with
  | .byte => ((List.range (blockWidth v)).find? fun k => (8 * (n + k)) % blockWidth v == 0).getD 0
  | .bit => (blockWidth v - (8 * n) % blockWidth v) % blockWidth v

/-- The padding amount of the message that `MSGE` or `MSGD` would start (R453). -/
def State.padFor (s : State) : Nat := padAmount s.ctrl.variant s.ctrl.padMode s.msgLen.toNat

/-- The effect of starting a message (R455, R456): `PENDING` becomes invalid while `MSG_ACTIVE` keeps
`BUSY` at 1, and `DONE` is not set (30_encoding.md R311). -/
def startMessage (dec : Bool) (s : State) : State :=
  { s with
    pending := none
    stream :=
      { active := true, modeDec := dec, ibuf := [], obuf := [], bytesLeft := s.msgLen.toNat,
        padLeft := s.padFor }
    msgPad := BitVec.ofNat 8 s.padFor
    msgBlocks := 0 }

/-- Check 8 of 30_encoding.md R320 for a message: BIT padding must end on a byte (R453, R455). -/
def padCheck (s : State) : Bool × ErrorCode :=
  (decide (s.ctrl.padMode = .bit) && decide (s.padFor % 8 ≠ 0), .length)

/-- `MSGE`: begin stream encryption (R455). -/
def execMsge (s : State) : StepResult :=
  runChecked .msge [keyCheck s, padCheck s] (startMessage false s) s

/-- `MSGD`: begin stream decryption (R456). -/
def execMsgd (s : State) : StepResult :=
  runChecked .msgd [keyCheck s, padCheck s] (startMessage true s) s

/-- `MABT`: abort any message and empty both FIFOs; `DONE` becomes 1 (R470). -/
def execMabt (s : State) : StepResult :=
  .next (complete
    { s with
      inFifo := []
      outFifo := []
      stream :=
        { s.stream with active := false, ibuf := [], obuf := [], bytesLeft := 0, padLeft := 0 } })

/-- The stream's micro-steps (R460). -/
inductive MicroStep where
  | drain
  | block
  | fill
  | pad
  | finish
deriving DecidableEq, Repr

/-- The one enabled micro-step of an active message: the first whose condition holds (R460). -/
def State.nextMicroStep (s : State) : Option MicroStep :=
  let b := blockWidth s.ctrl.variant
  let q := s.stream
  if 8 ≤ q.obuf.length ∧ s.outFifo.length < s.params.outDepth then some .drain
  else if b ≤ q.ibuf.length ∧ q.obuf.length < 8 then some .block
  else if q.ibuf.length < b ∧ 0 < q.bytesLeft ∧ 0 < s.inFifo.length then some .fill
  else if q.ibuf.length < b ∧ q.bytesLeft = 0 ∧ 0 < q.padLeft then some .pad
  else if q.ibuf.length = 0 ∧ q.bytesLeft = 0 ∧ q.padLeft = 0 ∧ q.obuf.length = 0 then some .finish
  else none

/-- One block of the stream: IP, the rounds, FP for Full; the rounds alone for Toy (R462). -/
def blockTransform (v : Variant) (dec : Bool) (keys : List Bits) (blk : Bits) : Bits :=
  let x := match v with
    | .full => applyTable blk tableIP
    | .toy => blk
  let p := (x.take (halfWidth v), x.drop (halfWidth v))
  let q := if dec then decBlock v keys p else encBlock v keys p
  let o := q.1 ++ q.2
  match v with
  | .full => applyTable o tableFP
  | .toy => o

/-- Drain: the first 8 bits of `OBUF` become a byte of the output FIFO (R464). -/
def drainStep (s : State) : State :=
  { s with
    outFifo := s.outFifo ++ [regOf 8 (s.stream.obuf.take 8)]
    stream := { s.stream with obuf := s.stream.obuf.drop 8 } }

/-- Block: one block moves from `IBUF` through the cipher to `OBUF` (R462). -/
def blockStep (s : State) : State :=
  let b := blockWidth s.ctrl.variant
  { s with
    stream :=
      { s.stream with
        ibuf := s.stream.ibuf.drop b
        obuf := s.stream.obuf ++
          blockTransform s.ctrl.variant s.stream.modeDec s.roundKeySeqs (s.stream.ibuf.take b) }
    msgBlocks := s.msgBlocks + 1 }

/-- Fill: one byte moves from the input FIFO to `IBUF` (R461). -/
def fillStep (s : State) : State :=
  { s with
    inFifo := s.inFifo.drop 1
    stream :=
      { s.stream with
        ibuf := s.stream.ibuf ++ toBits (s.inFifo.take 1)
        bytesLeft := s.stream.bytesLeft - 1 } }

/-- Pad: one filler byte (BYTE), or all filler bits at once (BIT) (R463). -/
def padStep (s : State) : State :=
  { s with
    stream :=
      match s.ctrl.padMode with
      | .byte =>
        { s.stream with
          ibuf := s.stream.ibuf ++ seqOf 8 s.ctrl.padByte
          padLeft := s.stream.padLeft - 1 }
      | .bit =>
        { s.stream with
          ibuf := s.stream.ibuf ++ List.replicate s.stream.padLeft s.ctrl.padBit
          padLeft := 0 } }

/-- Finish: the message ends, `BUSY` becomes 0 and `DONE` becomes 1 (R466). -/
def finishStep (s : State) : State :=
  { s with stream := { s.stream with active := false }, done := true }

/-- The effect of a micro-step. -/
def microStep (m : MicroStep) (s : State) : State :=
  match m with
  | .drain => drainStep s
  | .block => blockStep s
  | .fill => fillStep s
  | .pad => padStep s
  | .finish => finishStep s

/-- The engine's step while a message is active: the enabled micro-step, or a hold (R460, R467). -/
def streamStep (s : State) : State :=
  match s.nextMicroStep with
  | some m => microStep m s
  | none => s

end Sys2Proof.Machine
end

