-- ==== Sys2Proof/Machine/Substitution.lean ====
section
/-! DEFINITION. sbox_lookup_array: the command `SBOX` (43_sbox.md). -/

namespace Sys2Proof.Machine

/-- The effect of `SBOX k`: `RES` receives box `k` of the operand's low `SI` bits (R560). -/
def sboxEffect (k : Nat) (s : State) : State :=
  writeRes (substitute s.ctrl.variant k (seqOf (boxIn s.ctrl.variant) s.bv)) s

/-- `SBOX k`: substitute the bit-vector operand through box `k` of the current bank (R560). -/
def execSbox (k : Nat) (s : State) : StepResult :=
  runChecked (.sbox k)
    [(decide (boxCount s.ctrl.variant ≤ k), .badArgument),
     (decide (s.bvLen.toNat ≠ boxIn s.ctrl.variant), .shape)]
    (complete (sboxEffect k s)) s

end Sys2Proof.Machine
end

