-- ==== Sys2Proof/Machine/System.lean ====
section
/-! DEFINITION. The system commands `NOP` and `SRST` (46_system.md). -/

namespace Sys2Proof.Machine

/-- `NOP`: nothing but the completion flags (R700). -/
def execNop (s : State) : StepResult := .next (complete s)

/-- `SRST`: the effect of the reset event; `DONE` is not set (R705). -/
def execSrst (s : State) : StepResult := .next (resetBlock s)

end Sys2Proof.Machine
end

