-- ==== Sys2Proof/Machine/Dispatch.lean ====
section
/-! DEFINITION. One arm per command: the meaning that runs it. -/

namespace Sys2Proof.Machine

def exec (i : Instr) (s : State) : Host.Outcome State Fault Refusal :=
  match i with
  | .nop => Sys2Proof.Machine.execNop s
  | .srst => Sys2Proof.Machine.execSrst s
  | .kexp => Sys2Proof.Machine.execKexp s
  | .round i' => Sys2Proof.Machine.execRound i' s
  | .encb => Sys2Proof.Machine.execEncb s
  | .decb => Sys2Proof.Machine.execDecb s
  | .swap => Sys2Proof.Machine.execSwap s
  | .ffn i' => Sys2Proof.Machine.execFfn i' s
  | .perm t => Sys2Proof.Machine.execPerm t s
  | .sbox k => Sys2Proof.Machine.execSbox k s
  | .msge => Sys2Proof.Machine.execMsge s
  | .msgd => Sys2Proof.Machine.execMsgd s
  | .mabt => Sys2Proof.Machine.execMabt s
  | .unpk n => Sys2Proof.Machine.execUnpk n s
  | .pack => Sys2Proof.Machine.execPack s

end Sys2Proof.Machine
end

