-- ==== Sys2Proof/Machine/Window.lean ====
section
/-! DEFINITION. The register window: what a host read returns and what a host write does, for every
register but `CMD` (10_state.md R100-R161, 20_memory.md R200-R221; log 10). -/

namespace Sys2Proof.Machine

/-- The registers of the window (10_state.md R100). -/
inductive Reg where
  | id
  | param
  | ctrl
  | status
  | cmd
  | errInfo
  | keyLo
  | keyHi
  | keyLen
  | rkSel
  | rkLo
  | rkHi
  | halfL
  | halfR
  | bvLo
  | bvHi
  | bvLen
  | resLo
  | resHi
  | resLen
  | fifoIn
  | fifoOut
  | fifoStat
  | msgLen
  | msgPad
  | msgBlocks
  | utabLen
  | utab (i : Nat)
  | reserved
deriving DecidableEq, Repr

/-- The access the contract allows: 4 bytes, aligned, below 0x200 (20_memory.md R200). -/
def inContract (width off : Nat) : Bool :=
  decide (width = 4) && decide (off % 4 = 0) && decide (off < 0x200)

/-- The register at an aligned offset below 0x200 (10_state.md R100). -/
def regAt (off : Nat) : Reg :=
  match off with
  | 0x000 => .id
  | 0x004 => .param
  | 0x008 => .ctrl
  | 0x00C => .status
  | 0x010 => .cmd
  | 0x014 => .errInfo
  | 0x018 => .keyLo
  | 0x01C => .keyHi
  | 0x020 => .keyLen
  | 0x024 => .rkSel
  | 0x028 => .rkLo
  | 0x02C => .rkHi
  | 0x030 => .halfL
  | 0x034 => .halfR
  | 0x038 => .bvLo
  | 0x03C => .bvHi
  | 0x040 => .bvLen
  | 0x044 => .resLo
  | 0x048 => .resHi
  | 0x04C => .resLen
  | 0x050 => .fifoIn
  | 0x054 => .fifoOut
  | 0x058 => .fifoStat
  | 0x05C => .msgLen
  | 0x060 => .msgPad
  | 0x064 => .msgBlocks
  | 0x068 => .utabLen
  | n => if n < 0x100 then .reserved else .utab ((n - 0x100) / 4)

/-- The busy-locked registers (10_state.md R160). -/
def Reg.locked : Reg → Bool
  | .ctrl | .keyLo | .keyHi | .keyLen | .halfL | .halfR | .bvLo | .bvHi | .bvLen | .msgLen
  | .utabLen | .utab _ => true
  | .id | .param | .status | .cmd | .errInfo | .rkSel | .rkLo | .rkHi | .resLo | .resHi | .resLen
  | .fifoIn | .fifoOut | .fifoStat | .msgPad | .msgBlocks | .reserved => false

/-- The registers whose read is unspecified while busy (10_state.md R161). -/
def Reg.freeWhileBusy : Reg → Bool
  | .halfL | .halfR | .resLo | .resHi | .resLen | .rkLo | .rkHi => true
  | .id | .param | .ctrl | .status | .cmd | .errInfo | .keyLo | .keyHi | .keyLen | .rkSel | .bvLo
  | .bvHi | .bvLen | .fifoIn | .fifoOut | .fifoStat | .msgLen | .msgPad | .msgBlocks | .utabLen
  | .utab _ | .reserved => false

/-- `ID` (10_state.md R101). -/
def idWord : Word := 0x46524501

/-- `RKF[k]` for the selected `k`, 0 when `k` names no entry (10_state.md R137). -/
def State.selectedKey (s : State) : BitVec 48 := s.roundKeyWord s.rkSel.toNat

/-- The word `FIFO_OUT` shows: `VALID` in bit 8 and the oldest byte, or 0 (20_memory.md R221). -/
def fifoOutWord (q : List Byte) : Word :=
  match q with
  | [] => 0
  | b :: _ => 0x100 ||| b.setWidth 32

/-- The exact value of a register (10_state.md R101-R148); a write-only register and a reserved offset
read 0 (20_memory.md R203, R204). -/
def regValue (r : Reg) (s : State) : Word :=
  match r with
  | .id => idWord
  | .param => paramWord s.params
  | .ctrl => ctrlWord s.ctrl
  | .status => s.statusWord
  | .cmd => 0
  | .errInfo => s.errInfo
  | .keyLo => loWord s.key
  | .keyHi => hiWord s.key
  | .keyLen => s.keyLen.setWidth 32
  | .rkSel => s.rkSel.setWidth 32
  | .rkLo => s.selectedKey.extractLsb' 0 32
  | .rkHi => (s.selectedKey.extractLsb' 32 16).setWidth 32
  | .halfL => s.halfL
  | .halfR => s.halfR
  | .bvLo => loWord s.bv
  | .bvHi => hiWord s.bv
  | .bvLen => s.bvLen.setWidth 32
  | .resLo => loWord s.res
  | .resHi => hiWord s.res
  | .resLen => s.resLen.setWidth 32
  | .fifoIn => 0
  | .fifoOut => fifoOutWord s.outFifo
  | .fifoStat => s.fifoStatWord
  | .msgLen => s.msgLen
  | .msgPad => s.msgPad.setWidth 32
  | .msgBlocks => s.msgBlocks
  | .utabLen => s.utabLen.setWidth 32
  | .utab i => ((s.utab[i]?).getD 0).setWidth 32
  | .reserved => 0

/-- The side effect of a host read: only `FIFO_OUT` has one (20_memory.md R206, R221). -/
def readEffect (r : Reg) (s : State) : State :=
  match r with
  | .fifoOut => { s with outFifo := s.outFifo.drop 1 }
  | .id | .param | .ctrl | .status | .cmd | .errInfo | .keyLo | .keyHi | .keyLen | .rkSel | .rkLo
  | .rkHi | .halfL | .halfR | .bvLo | .bvHi | .bvLen | .resLo | .resHi | .resLen | .fifoIn
  | .fifoStat | .msgLen | .msgPad | .msgBlocks | .utabLen | .utab _ | .reserved => s

/-- A host read of a register: a free draw for the registers of R161 while busy, else the exact value
with the read's side effect (10_state.md R161, 20_memory.md R206). -/
def readReg (r : Reg) (s : State) : State :=
  if s.busy && r.freeWhileBusy then
    { s with readData := Config.freeRead s.freeCount, freeCount := s.freeCount + 1 }
  else
    { readEffect r s with readData := regValue r s }

/-- An accepted write to `CTRL`: a change of `VARIANT` or `NROUNDS` clears `KEY_VALID` (10_state.md
R110, R119). -/
def writeCtrl (v : Word) (s : State) : State :=
  let c := ctrlOfWord v
  { s with
    ctrl := c
    keyValid := s.keyValid && decide (c.variant = s.ctrl.variant ∧ c.nrounds = s.ctrl.nrounds) }

/-- A host write to `FIFO_IN` (20_memory.md R220). -/
def pushIn (v : Word) (s : State) : State :=
  if s.inFifo.length = s.params.inDepth then raiseError .fifoOverflow .access 0x050 s
  else { s with inFifo := s.inFifo ++ [v.extractLsb' 0 8] }

/-- The effect of an accepted host write of `v` to a register other than `CMD` (10_state.md R110-R148,
R135, 20_memory.md R203, R204, R207). -/
def setReg (r : Reg) (v : Word) (s : State) : State :=
  match r with
  | .ctrl => writeCtrl v s
  | .status => writeStatus v s
  | .keyLo => { s with key := withLo s.key v, keyValid := false }
  | .keyHi => { s with key := withHi s.key v, keyValid := false }
  | .keyLen => { s with keyLen := clampLen v, keyValid := false }
  | .rkSel => { s with rkSel := v.extractLsb' 0 5 }
  | .halfL => { s with halfL := v }
  | .halfR => { s with halfR := v }
  | .bvLo => { s with bv := withLo s.bv v }
  | .bvHi => { s with bv := withHi s.bv v }
  | .bvLen => { s with bvLen := clampLen v }
  | .fifoIn => pushIn v s
  | .msgLen => { s with msgLen := v }
  | .utabLen => { s with utabLen := clampLen v }
  | .utab i => { s with utab := s.utab.setIfInBounds i (v.extractLsb' 0 6) }
  | .id | .param | .cmd | .errInfo | .rkLo | .rkHi | .resLo | .resHi | .resLen | .fifoOut
  | .fifoStat | .msgPad | .msgBlocks | .reserved => s

/-- `zext_32(offset[11:0])`, the error information of a register access (60_exceptions.md R810). -/
def offsetInfo (off : Nat) : Word := BitVec.ofNat 32 (off % 4096)

/-- A host write to a register other than `CMD`: a write to a busy-locked register while busy is not
performed and raises `SEQUENCE` (10_state.md R160). -/
def writeReg (off : Nat) (v : Word) (s : State) : State :=
  if s.busy && (regAt off).locked then raiseError .sequence .access (offsetInfo off) s
  else setReg (regAt off) v s

end Sys2Proof.Machine
end

