-- ==== Sys2Proof/Machine/HostPort.lean ====
section
/-! DEFINITION. The two agents' steps: a host access, among them the submission of a command
(30_encoding.md R310), and the engine's step (30_encoding.md R311, 41_chunker_stream.md R460). -/

namespace Sys2Proof.Machine

/-- The command that a write of `w` to `CMD` performs at once, in the host's step: `SRST` always, and
`MABT` during a message (30_encoding.md R310). -/
def actsAtOnce (w : Word) (s : State) : Option Instr :=
  match decode w with
  | .command .srst => some .srst
  | .command .mabt => if s.stream.active then some .mabt else none
  | _ => none

/-- A host write of `w` to `CMD` (30_encoding.md R310). -/
def submit (w : Word) (s : State) : StepResult :=
  match actsAtOnce w s with
  | some i => exec i s
  | none =>
    if s.busy then .next (raiseError .sequence .command w s)
    else .next { s with pending := some w }

/-- A host access (20_memory.md R200). Outside the contract it is refused (log 9). -/
def hostStep (a : Access) (s : State) : StepResult :=
  match a with
  | .read width off =>
    if inContract width off then .next (readReg (regAt off) s)
    else .refused (.outsideContract width off)
  | .write width off v =>
    if inContract width off then
      if off = 0x010 then submit v s else .next (writeReg off v s)
    else .refused (.outsideContract width off)

/-- The execution step of a pending word: check 1 of 30_encoding.md R320 is the decoder's, the rest is
the command's own (R311). -/
def runWord (w : Word) (s : State) : StepResult :=
  match decode w with
  | .command i => exec i s
  | .illegal _ => .next (failCommand .illegalCommand w s)

/-- The engine's turn: the pending command, or the stream's micro-step, or nothing (20_memory.md R201,
30_encoding.md R311, 41_chunker_stream.md R460; log 12, log 13). -/
def engineStep (s : State) : StepResult :=
  match s.pending with
  | some w => runWord w s
  | none => if s.stream.active then .next (streamStep s) else .next s

/-- One turn of the interleaving (20_memory.md R230). -/
def takeTurn (t : Turn) (s : State) : StepResult :=
  match t with
  | .engine => engineStep s
  | .host a => hostStep a s
  | .reset => .next (resetBlock s)

/-- A command word placed where the next step runs it: in `PENDING` for the engine's turn, or as the
host's write to `CMD` for a command that acts at once (30_encoding.md R310, R311; log 2). -/
def placeWord (w : Word) (s : State) : State :=
  if (actsAtOnce w s).isSome then
    { s with agenda := .host (.write 4 0x010 w) :: s.agenda }
  else
    { s with
      pending := some w
      agenda := if s.agenda = [] then [] else .engine :: s.agenda }

end Sys2Proof.Machine
end

