-- ==== Sys2Proof/Machine/Step.lean ====
section
/-! DEFINITION. One step of the machine: the next turn of the agenda; an empty agenda is the engine's turn
(20_memory.md R230; log 1). -/

namespace Sys2Proof.Machine

/-- One atomic step of the interleaving. -/
def step (s : State) : Host.Outcome State Fault Refusal :=
  match s.agenda with
  | [] => engineStep s
  | t :: rest => takeTurn t { s with agenda := rest }

/-- `s` with a command word placed so that the very next step runs it (log 2). -/
def State.withFetchWord (s : State) (nbits w : Nat) : State := placeWord (commandWord nbits w) s

end Sys2Proof.Machine
end

