-- ==== Sys2Proof/Safety.lean ====
section
/-! DEFINITION. The terms that claims about the machine use: whose turn it is, sequences of commands, the
invariants, and the output a message in progress still owes. -/

namespace Sys2Proof.Machine

/-- `s` with `t` as the next turn of its agenda. -/
def State.facing (s : State) (t : Turn) : State := { s with agenda := t :: s.agenda }

/-- `s` with a host write of `v` to the register at `off` as the next turn. -/
def State.facingWrite (s : State) (off : Nat) (v : Word) : State :=
  s.facing (.host (.write 4 off v))

/-- `s` with a host read of the register at `off` as the next turn. -/
def State.facingRead (s : State) (off : Nat) : State := s.facing (.host (.read 4 off))

/-- A host read of the register at `off` returns `v` and changes nothing in the block. -/
def ReadsAs (s : State) (off : Nat) (v : Word) : Prop :=
  step (s.facingRead off) = .next { s with readData := v }

/-- Commands executed one after the other. -/
def execAll : List Instr → State → StepResult
  | [], s => .next s
  | i :: rest, s =>
    match exec i s with
    | .next t => execAll rest t
    | .fault r => .fault r
    | .refused r => .refused r

/-- The low `h` bits of a half-block register (10_state.md R138). -/
def lowHalf (v : Variant) (w : Word) : Word := BitVec.ofNat 32 (w.toNat % 2 ^ halfWidth v)

/-- The error record after one more error (60_exceptions.md R810). -/
def recorded (old : Option ErrorRecord) (code : ErrorCode) (src : ErrorSource) (info : Word) :
    Option ErrorRecord :=
  match old with
  | none => some ⟨code, src, info, false⟩
  | some e => some ⟨e.code, e.src, e.info, true⟩

/-- The padding amount in closed form (41_chunker_stream.md R453). -/
def paddingUnits (v : Variant) (m : PadMode) (n : Nat) : Nat :=
  match v, m with
  | .full, .byte => (8 - n % 8) % 8
  | .toy, .byte => (3 - n % 3) % 3
  | .full, .bit => 8 * ((8 - n % 8) % 8)
  | .toy, .bit => 4 * (n % 3)

/-- The condition under which padding of a message of `n` bytes ends on a byte
(41_chunker_stream.md R453, R455). -/
def paddingFits (v : Variant) (m : PadMode) (n : Nat) : Prop :=
  ¬(v = .toy ∧ m = .bit ∧ n % 3 = 1)

/-- The checks of 30_encoding.md R320 in their order, read off the raw command word: the first one that
fails, if any. -/
def firstFailingCheck (w : Word) (s : State) : Option ErrorCode :=
  let op := w.toNat % 256
  let a := w.toNat / 256 % 256
  let n := s.ctrl.nrounds.toNat
  let len := s.bvLen.toNat
  if op ∉ [0x00, 0x01, 0x10, 0x20, 0x21, 0x22, 0x23, 0x24, 0x30, 0x31, 0x40, 0x41, 0x42, 0x50, 0x51]
      ∨ 2 ^ 16 ≤ w.toNat ∨ (op ∉ [0x20, 0x24, 0x30, 0x31, 0x50] ∧ a ≠ 0) then some .illegalCommand
  else if (op = 0x30 ∧ ¬(a ≤ 9 ∨ a = 15)) ∨ (op = 0x31 ∧ boxCount s.ctrl.variant ≤ a)
      ∨ (op = 0x50 ∧ ¬(1 ≤ a ∧ a ≤ 8)) then some .badArgument
  else if op ∈ [0x20, 0x24, 0x21, 0x22, 0x40, 0x41] ∧ s.keyValid = false then some .keyNotReady
  else if op ∈ [0x20, 0x24] ∧ ¬(1 ≤ a ∧ a ≤ n) then some .badRoundIndex
  else if op = 0x10 ∧ ¬(1 ≤ n ∧ n ≤ 16) then some .config
  else if op = 0x10 ∧ s.keyLen.toNat < rawKeyWidth s.ctrl.variant then some .keyLength
  else if (op = 0x30 ∧ a ≤ 9 ∧ len ≠ [64, 64, 32, 32, 64, 56, 6, 6, 9, 9].getD a 0)
      ∨ (op = 0x30 ∧ a = 15 ∧ ¬∀ u ∈ s.utab.toList.take s.utabLen.toNat, u.toNat < len)
      ∨ (op = 0x31 ∧ len ≠ boxIn s.ctrl.variant) then some .shape
  else if (op = 0x51 ∧ len % 8 ≠ 0)
      ∨ (op ∈ [0x40, 0x41] ∧ s.ctrl.padMode = .bit
        ∧ paddingUnits s.ctrl.variant .bit s.msgLen.toNat % 8 ≠ 0) then some .length
  else if op = 0x50 ∧ s.inFifo.length < a then some .fifoUnderflow
  else if op = 0x51 ∧ s.params.outDepth - s.outFifo.length < len / 8 then some .fifoOverflow
  else none

/-- The bounds every field keeps (00_scope.md R7, 10_state.md R134, R139, R140, R145, R147, R154). -/
structure FieldsInRange (s : State) : Prop where
  params : s.params.Legal
  inLevel : s.inFifo.length ≤ s.params.inDepth
  outLevel : s.outFifo.length ≤ s.params.outDepth
  keyLen : s.keyLen.toNat ≤ 64
  bvLen : s.bvLen.toNat ≤ 64
  utabLen : s.utabLen.toNat ≤ 64
  resLen : s.resLen.toNat ≤ 64
  res : s.res.toNat < 2 ^ s.resLen.toNat
  msgPad : s.msgPad.toNat ≤ 63

/-- `KEY_VALID = 1` says that the round-key file holds the schedule of the current key, key length,
variant and round count (10_state.md R122, 20_memory.md R234). -/
def KeyCoherent (s : State) : Prop :=
  s.keyValid = true →
    (1 ≤ s.rounds ∧ s.rounds ≤ 16) ∧ rawKeyWidth s.ctrl.variant ≤ s.keyLen.toNat ∧
      s.rkf = s.derivedKeys

/-- The filler bits still to be appended (41_chunker_stream.md R453). -/
def State.fillerLeft (s : State) : Nat :=
  match s.ctrl.padMode with
  | .byte => 8 * s.stream.padLeft
  | .bit => s.stream.padLeft

/-- The length in bits of the message that `MSGE` or `MSGD` last started, filler included: `8 * MSG_LEN +
padbits` (41_chunker_stream.md R466). -/
def State.messageBits (s : State) : Nat :=
  8 * s.msgLen.toNat +
    match s.ctrl.padMode with
    | .byte => 8 * s.msgPad.toNat
    | .bit => s.msgPad.toNat

/-- `MSG_BLOCKS` keeps count of the message: the blocks processed, the bits in `IBUF`, the bytes still to be
popped and the filler still to be appended make up the padded message (10_state.md R146, 41_chunker_stream.md
R466). -/
def BlockCount (s : State) : Prop :=
  s.stream.active = true →
    blockWidth s.ctrl.variant * s.msgBlocks.toNat + s.stream.ibuf.length + 8 * s.stream.bytesLeft +
      s.fillerLeft = s.messageBits

/-- What holds of the stream between any two steps (10_state.md R152, R153, 41_chunker_stream.md R465). -/
structure StreamInv (s : State) : Prop where
  /-- a command is never pending while a message is active -/
  exclusive : s.pending.isSome = true → s.stream.active = false
  /-- between messages the stream holds nothing -/
  idle : s.stream.active = false →
    s.stream.ibuf = [] ∧ s.stream.obuf = [] ∧ s.stream.bytesLeft = 0 ∧ s.stream.padLeft = 0
  ibufBound : s.stream.ibuf.length ≤ blockWidth s.ctrl.variant + 7
  obufBound : s.stream.obuf.length ≤ blockWidth s.ctrl.variant + 7
  bytesBound : s.stream.bytesLeft < 2 ^ 32
  padBound : s.stream.padLeft ≤ 63
  /-- in BIT mode the filler is shorter than a block -/
  bitPad : s.stream.active = true → s.ctrl.padMode = .bit →
    s.stream.padLeft < blockWidth s.ctrl.variant
  /-- the bits still to be formed into blocks are a whole number of blocks -/
  aligned : s.stream.active = true →
    (s.stream.ibuf.length + 8 * s.stream.bytesLeft + s.fillerLeft) % blockWidth s.ctrl.variant = 0
  /-- the bits still to leave the stream are a whole number of bytes -/
  whole : s.stream.active = true →
    (s.stream.obuf.length + s.stream.ibuf.length + 8 * s.stream.bytesLeft + s.fillerLeft) % 8 = 0

/-- The filler bits still to be appended, as a sequence (41_chunker_stream.md R452, R463). -/
def State.fillerBits (s : State) : Bits :=
  match s.ctrl.padMode with
  | .byte => toBits (List.replicate s.stream.padLeft s.ctrl.padByte)
  | .bit => List.replicate s.stream.padLeft s.ctrl.padBit

/-- The message bits still to be formed into blocks, when the input FIFO holds all remaining bytes. -/
def State.inputBits (s : State) : Bits :=
  s.stream.ibuf ++ toBits (s.inFifo.take s.stream.bytesLeft) ++ s.fillerBits

/-- The consecutive groups of `b` bits (41_chunker_stream.md R450). -/
def blocksOf (b : Nat) (x : Bits) : List Bits :=
  (List.range (x.length / b)).map fun k => (x.drop (b * k)).take b

/-- The transform of a block-aligned sequence, block by block (41_chunker_stream.md R462, R476). -/
def transformBits (v : Variant) (dec : Bool) (keys : List Bits) (x : Bits) : Bits :=
  (blocksOf (blockWidth v) x).flatMap (blockTransform v dec keys)

/-- All the output of the message: the bytes in the output FIFO, the bits in `OBUF`, and the transform of
the bits still to come. -/
def State.outputBits (s : State) : Bits :=
  toBits s.outFifo ++ s.stream.obuf ++
    transformBits s.ctrl.variant s.stream.modeDec s.roundKeySeqs s.inputBits

end Sys2Proof.Machine
end

