-- ==== Sys2Proof/Certificates/Slice0/Obligations.lean ====
section
/-! DEFINITION. The statements about the machine, for the provers. OBLIGATIONS.json lists them. -/

open Sys2Proof Sys2Proof.Machine

/-! ### Encoding -/

/-- Decoding the encoding of any well-formed command gives it back (30_encoding.md R300-R303). -/
def Obligations.DecodeOfEncode : Prop :=
  ∀ i : Instr, WellFormed i → decode (encode i) = .command i

/-- A word that decodes to a command is that command's encoding, so each command has one word
(30_encoding.md R300-R303). -/
def Obligations.EncodeOfDecode : Prop :=
  ∀ (w : Word) (i : Instr), decode w = .command i → encode i = w ∧ WellFormed i

/-- Exactly the words with nonzero reserved bits, an unassigned opcode, or a nonzero argument on a command
that takes none are illegal, and exactly 15 opcodes are assigned (30_encoding.md R302, R303, R330). -/
def Obligations.IllegalWordsExactly : Prop :=
  (∀ w : Word, (∃ r, decode w = .illegal r) ↔
    (w.extractLsb' 16 16 ≠ 0 ∨
      w.extractLsb' 0 8 ∉ ([0x00, 0x01, 0x10, 0x20, 0x21, 0x22, 0x23, 0x24, 0x30, 0x31, 0x40, 0x41,
        0x42, 0x50, 0x51] : List Byte) ∨
      (w.extractLsb' 0 8 ∉ ([0x20, 0x24, 0x30, 0x31, 0x50] : List Byte) ∧ w.extractLsb' 8 8 ≠ 0))) ∧
  ((List.range 256).filter fun op => decodeOpcode op 0 ≠ .illegal .reservedOpcode).length = 15

/-- The words of 30_encoding.md R303 and of each family's encoding line decode to their commands. -/
def Obligations.SpecWordsDecode : Prop :=
  decode 0x00000000 = .command .nop ∧ decode 0x00000001 = .command .srst ∧
  decode 0x00000010 = .command .kexp ∧ decode 0x00000320 = .command (.round 3) ∧
  decode 0x00000424 = .command (.ffn 4) ∧ decode 0x00000023 = .command .swap ∧
  decode 0x00000230 = .command (.perm 2) ∧ decode 0x00000131 = .command (.sbox 1) ∧
  decode 0x00000041 = .command .msgd ∧ decode 0x00000350 = .command (.unpk 3) ∧
  decode 0x00000051 = .command .pack ∧ decode 0x00010000 = .illegal .reservedBits ∧
  decode 0x00000101 = .illegal .unusedArgument ∧ decode 0x00000002 = .illegal .reservedOpcode

/-! ### The step and the two agents -/

/-- On the engine's turn, and when no turn is scheduled (log 1), a pending word that decodes to a command
runs it; a placed command word (log 2) runs at the very next step (30_encoding.md R311). -/
def Obligations.StepRunsTheDecodedCommand : Prop :=
  (∀ (s : State) (w : Word) (i : Instr), s.pending = some w → decode w = .command i →
    step (s.facing .engine) = exec i s ∧ (s.agenda = [] → step s = exec i s)) ∧
  (∀ (s : State) (w : Word) (i : Instr), decode w = .command i →
    ∃ t : State, step (s.withFetchWord 32 w.toNat) = exec i t ∧ t.agenda = s.agenda ∧
      (t = s ∨ t = { s with pending := some w }))

/-- The acceptance of a word written to `CMD`, in all its branches (30_encoding.md R310). -/
def Obligations.CommandAcceptance : Prop :=
  ∀ (s : State) (w : Word),
    (w.toNat = 0x01 → step (s.facingWrite 0x010 w) = exec .srst s) ∧
    (w.toNat ≠ 0x01 → s.busy = true → w.toNat = 0x42 → s.stream.active = true →
      step (s.facingWrite 0x010 w) = exec .mabt s) ∧
    (w.toNat ≠ 0x01 → s.busy = true → ¬(w.toNat = 0x42 ∧ s.stream.active = true) →
      step (s.facingWrite 0x010 w) =
        .next { s with error := recorded s.error .sequence .command w }) ∧
    (w.toNat ≠ 0x01 → s.busy = false →
      step (s.facingWrite 0x010 w) = .next { s with pending := some w })

/-- The one error a pending word reports is the first failing check of the table of 30_encoding.md R320,
read off the raw word; then nothing changes but the error record, `PENDING` and `DONE`. When no check
fails the word is a command that completes, and it records no error. -/
def Obligations.PendingWordReportsFirstFailingCheck : Prop :=
  ∀ (s : State) (w : Word), s.pending = some w →
    (∀ c, firstFailingCheck w s = some c →
      step (s.facing .engine) =
        .next { s with error := recorded s.error c .command w, pending := none, done := true }) ∧
    (firstFailingCheck w s = none →
      ∃ i t, decode w = .command i ∧ exec i s = .next t ∧ step (s.facing .engine) = .next t ∧
        t.pending = none ∧ (i ≠ .srst → t.error = s.error))

/-! ### System commands -/

/-- `NOP`: its word, its effect, its submission to an idle block and the engine's turn after it, whatever turns
follow, and its rejection while busy (46_system.md R700, 30_encoding.md R310, R311). -/
def Obligations.NopOnlyCompletes : Prop :=
  encode .nop = 0 ∧
  (∀ s : State, exec .nop s = .next { s with pending := none, done := true }) ∧
  (∀ s : State, s.busy = false →
    let submitted : State := { s with pending := some 0 }
    step (s.facingWrite 0x010 0) = .next submitted ∧
    step ((s.facing .engine).facingWrite 0x010 0) = .next (submitted.facing .engine) ∧
    step (submitted.facing .engine) = .next { s with done := true }) ∧
  (∀ s : State, s.busy = true →
    step (s.facingWrite 0x010 0) = .next { s with error := recorded s.error .sequence .command 0 })

/-- `SRST` and the reset event put every piece of the block's state at its reset value, at once and
whatever `BUSY` is; the reads of `STATUS`, `CTRL` and `FIFO_STAT` then show the spec's reset values
(46_system.md R705, 70_reset_and_hazards.md R900). That the agenda, the last read word and the count of
free draws stay is the model's choice (log 6). -/
def Obligations.SoftResetIsTheResetEvent : Prop :=
  ∀ s : State, ∃ t : State,
    t = { State.resetWith s.params with
      agenda := s.agenda, readData := s.readData, freeCount := s.freeCount } ∧
    exec .srst s = .next t ∧ step (s.facingWrite 0x010 0x00000001) = .next t ∧
    step (s.facing .reset) = .next t ∧
    t.statusWord = 0 ∧ ctrlWord t.ctrl = 0x00001000 ∧ t.irq = false ∧
    (s.params.Legal → t.fifoStatWord = 0x000A0000)

/-- Every register and FIFO of the reset state has the value the spec's table gives
(10_state.md R170). -/
def Obligations.ResetValues : Prop :=
  ∀ p : Params, p.Legal →
    let s := State.resetWith p
    regValue .id s = 0x46524501 ∧ s.params = p ∧ s.statusWord = 0 ∧ ctrlWord s.ctrl = 0x00001000 ∧ s.errInfo = 0 ∧ s.key = 0 ∧
    s.keyLen = 0 ∧ s.rkSel = 0 ∧ (∀ i, s.roundKeyWord i = 0) ∧ s.halfL = 0 ∧ s.halfR = 0 ∧ s.bv = 0 ∧
    s.bvLen = 0 ∧ s.res = 0 ∧ s.resLen = 0 ∧ s.fifoStatWord = 0x000A0000 ∧ s.inFifo = [] ∧
    s.outFifo = [] ∧ s.msgLen = 0 ∧ s.msgPad = 0 ∧ s.msgBlocks = 0 ∧ s.utabLen = 0 ∧
    (∀ u ∈ s.utab.toList, u = 0) ∧ s.pending = none ∧ s.stream = ⟨false, false, [], [], 0, 0⟩ ∧
    s.irq = false ∧ paramWord Params.default = 0x00001010

/-! ### Key schedule -/

/-- `KEXP` in the Toy variant: round key `i` is the low 8 bits of the 9-bit key rotated right by
`TOY_R1_SHIFT + i - 1`, the entries above `N` are 0 (44_key_schedule.md R604, R605, R607). -/
def Obligations.KexpToyRoundKeys : Prop :=
  ∀ s : State, s.ctrl.variant = .toy → 1 ≤ s.rounds → s.rounds ≤ 16 → 9 ≤ s.keyLen.toNat →
    ∃ rkf : Vector (BitVec 48) 16,
      exec .kexp s = .next { s with rkf := rkf, keyValid := true, pending := none, done := true } ∧
      ∀ (i : Nat) (h : i < 16),
        rkf[i] =
          if i < s.rounds then
            (((s.key.setWidth 9).rotateRight (s.params.toyR1Shift + i)).setWidth 8).setWidth 48
          else 0

/-- `KEXP` in the Full variant: bit `j` of round key `i + 1` is the key bit that PC2, the accumulated
rotations of the halves and PC1 select; the entries above `N` are 0 (44_key_schedule.md R601, R602, R605). -/
def Obligations.KexpFullRoundKeys : Prop :=
  ∀ s : State, s.ctrl.variant = .full → 1 ≤ s.rounds → s.rounds ≤ 16 → 64 ≤ s.keyLen.toNat →
    ∃ rkf : Vector (BitVec 48) 16,
      exec .kexp s = .next { s with rkf := rkf, keyValid := true, pending := none, done := true } ∧
      ∀ (i : Nat) (h : i < 16), ∀ j < 48,
        rkf[i].getLsbD j =
          (decide (i < s.rounds) &&
            let turn := (shiftTable.take (i + 1)).sum
            let p := tablePC2.getD j 0
            let q := if p < 28 then (p + turn) % 28 else 28 + (p - 28 + turn) % 28
            s.key.getLsbD (tablePC1.getD q 0))

/-! ### Feistel commands -/

/-- Output element `outputTable[j] = SO * lane + b` of `f` is bit `SO - 1 - b` of the entry that the lane's
group of `xor(expand(R), K)` selects in the lane's own box (45_feistel.md R650, R651, R681, 43_sbox.md R552,
R554). -/
def Obligations.FeistelFunctionByLanes : Prop :=
  ∀ (v : Variant) (rs k : Bits), rs.length = halfWidth v → k.length = roundKeyWidth v →
    (feistel v rs k).length = halfWidth v ∧
    ∀ j < halfWidth v,
      let x : Nat → Bool := fun m => rs.getD ((expansionTable v).getD m 0) false ^^ k.getD m false
      let y := (outputTable v).getD j 0
      let lane := y / boxOut v
      let b := y % boxOut v
      let z : Nat → Nat := fun m => (x (boxIn v * lane + m)).toNat
      (feistel v rs k).getD j false =
        (match v with
          | .full => sboxEntry .full lane (2 * z 0 + z 5) (8 * z 1 + 4 * z 2 + 2 * z 3 + z 4)
          | .toy => sboxEntry .toy lane (z 0) (4 * z 1 + 2 * z 2 + z 3)).testBit (boxOut v - 1 - b)

/-- `FFN i` writes `f(R, RK[i])` and its width to `RES`; `ROUND i` moves the low half of `R` to `L` and
writes `L xor f(R, RK[i])` to `R`. Both complete when the key is valid and `i` is in 1..N, change nothing
else, and leave bits `[31:h]` of `L` and `R` zero (45_feistel.md R652, R655, R660, 10_state.md R138). -/
def Obligations.FfnAndRoundResults : Prop :=
  ∀ (s : State) (i : Nat), s.keyValid = true → 1 ≤ i → i ≤ s.rounds →
    ∃ f : Word, seqOf (halfWidth s.ctrl.variant) f =
        feistel s.ctrl.variant (seqOf (halfWidth s.ctrl.variant) s.halfR)
          (seqOf (roundKeyWidth s.ctrl.variant) (s.roundKeyWord i)) ∧
      f = lowHalf s.ctrl.variant f ∧
      exec (.ffn i) s = .next { s with
        res := f.setWidth 64, resLen := BitVec.ofNat 7 (halfWidth s.ctrl.variant),
        pending := none, done := true } ∧
      exec (.round i) s = .next { s with
        halfL := lowHalf s.ctrl.variant s.halfR,
        halfR := lowHalf s.ctrl.variant s.halfL ^^^ f,
        pending := none, done := true }

/-- `SWAP` exchanges the low `h` bits of `L` and `R`, zeroes their upper bits, needs no key and changes
nothing else; two swaps restore the low `h` bits (45_feistel.md R665). -/
def Obligations.SwapExchangesHalves : Prop :=
  ∀ s : State,
    exec .swap s = .next { s with
      halfL := lowHalf s.ctrl.variant s.halfR, halfR := lowHalf s.ctrl.variant s.halfL,
      pending := none, done := true } ∧
    execAll [.swap, .swap] s = .next { s with
      halfL := lowHalf s.ctrl.variant s.halfL, halfR := lowHalf s.ctrl.variant s.halfR,
      pending := none, done := true }

/-- The round-trip law on half-blocks and on the commands, and the composition of `ENCB` and `DECB` from
single rounds and the swap (45_feistel.md R680). With the key valid each of `ENCB` and `DECB` completes, writes
its block to `L` and `R`, with bits `[31:h]` zero, and changes nothing else but `PENDING` and `DONE`
(45_feistel.md R670, R675, 30_encoding.md R311). -/
def Obligations.BlockRoundTripAndComposition : Prop :=
  (∀ (v : Variant) (keys : List Bits) (ls rs : Bits),
    ls.length = halfWidth v → rs.length = halfWidth v →
    decBlock v keys (encBlock v keys (ls, rs)) = (ls, rs) ∧
    encBlock v keys (decBlock v keys (ls, rs)) = (ls, rs)) ∧
  (∀ s : State, s.keyValid = true →
    let back : StepResult := .next { s with
      halfL := lowHalf s.ctrl.variant s.halfL, halfR := lowHalf s.ctrl.variant s.halfR,
      pending := none, done := true }
    let half : Word → Bits := seqOf (halfWidth s.ctrl.variant)
    (∃ l r, (half l, half r) =
        encBlock s.ctrl.variant s.roundKeySeqs (half s.halfL, half s.halfR) ∧
      l = lowHalf s.ctrl.variant l ∧ r = lowHalf s.ctrl.variant r ∧
      exec .encb s = .next { s with halfL := l, halfR := r, pending := none, done := true }) ∧
    (∃ l r, (half l, half r) =
        decBlock s.ctrl.variant s.roundKeySeqs (half s.halfL, half s.halfR) ∧
      l = lowHalf s.ctrl.variant l ∧ r = lowHalf s.ctrl.variant r ∧
      exec .decb s = .next { s with halfL := l, halfR := r, pending := none, done := true }) ∧
    execAll [.encb, .decb] s = back ∧ execAll [.decb, .encb] s = back ∧
    execAll ((List.range s.rounds).map (fun j => .round (j + 1)) ++ [.swap]) s = exec .encb s ∧
    execAll ((List.range s.rounds).reverse.map (fun j => .round (j + 1)) ++ [.swap]) s =
      exec .decb s)

/-! ### Permutation, substitution, codec -/

/-- `PERM t` completes when its shape check passes: bit `j` of `RES` is bit `T[j]` of `BV`, the bits at and
above the table's length are 0, `RES_LEN` is that length, nothing else changes (42_permutation.md R512,
R515). For the user table, `UTAB_LEN` is at most 64, as its register holds it. -/
def Obligations.PermAppliesTheTable : Prop :=
  ∀ (s : State) (t : Nat) (table : List Nat),
    ((∃ width, fixedTable t = some (width, table) ∧ s.bvLen.toNat = width) ∨
      (t = 15 ∧ s.utabLen.toNat ≤ 64 ∧ table.length = s.utabLen.toNat ∧
        (∀ j < table.length, table[j]? = (s.utab[j]?).map BitVec.toNat) ∧
        ∀ u ∈ table, u < s.bvLen.toNat)) →
    ∃ r : BitVec 64,
      exec (.perm t) s = .next { s with
        res := r, resLen := BitVec.ofNat 7 table.length, pending := none, done := true } ∧
      ∀ j < 64, r.getLsbD j = (decide (j < table.length) && s.bv.getLsbD (table.getD j 0))

/-- IP and FP undo each other; IP, FP, P, TP and TPC1 are bijections and the other fixed tables are not; and
every entry of every fixed table is below that table's input width (42_permutation.md R502, R511). -/
def Obligations.FixedTableProperties : Prop :=
  (∀ x : Bits, x.length = 64 →
    applyTable (applyTable x tableIP) tableFP = x ∧ applyTable (applyTable x tableFP) tableIP = x) ∧
  (∀ t width table, fixedTable t = some (width, table) → ∀ e ∈ table, e < width) ∧
  (∀ t width table, fixedTable t = some (width, table) →
    (table.Perm (List.range width) ↔ t ∈ [0, 1, 3, 7, 8]))

/-- `SBOX k` completes for a box of the current bank and an operand of the box's width: `RES` is the entry
with its bits reversed, row and column taken from the operand's bits as 43_sbox.md R556 says, nothing else
changes (43_sbox.md R552-R560). -/
def Obligations.SboxLooksUpTheEntry : Prop :=
  ∀ (s : State) (k : Nat), k < boxCount s.ctrl.variant → s.bvLen.toNat = boxIn s.ctrl.variant →
    let z : Nat → Nat := fun m => (s.bv.getLsbD m).toNat
    let entry := match s.ctrl.variant with
      | .full => sboxEntry .full k (2 * z 0 + z 5) (8 * z 1 + 4 * z 2 + 2 * z 3 + z 4)
      | .toy => sboxEntry .toy k (z 0) (4 * z 1 + 2 * z 2 + z 3)
    ∃ r : BitVec 64,
      exec (.sbox k) s = .next { s with
        res := r, resLen := BitVec.ofNat 7 (boxOut s.ctrl.variant), pending := none, done := true } ∧
      ∀ j < 64, r.getLsbD j =
        (decide (j < boxOut s.ctrl.variant) && entry.testBit (boxOut s.ctrl.variant - 1 - j))

/-- `UNPK n` completes when 1 to 8 bytes are asked for and present: byte `j` of the FIFO lands in
`BV[8j+7:8j]`, the bits above are 0, the `n` bytes leave the FIFO, nothing else changes (40_codec.md R410). -/
def Obligations.UnpkMovesBytesToBv : Prop :=
  ∀ (s : State) (n : Nat), 1 ≤ n → n ≤ 8 → n ≤ s.inFifo.length →
    ∃ r : BitVec 64,
      exec (.unpk n) s = .next { s with
        bv := r, bvLen := BitVec.ofNat 7 (8 * n), inFifo := s.inFifo.drop n,
        pending := none, done := true } ∧
      ∀ j < 8, r.extractLsb' (8 * j) 8 = if j < n then s.inFifo.getD j 0 else 0

/-- `PACK` completes for a whole number of bytes that fits: it pushes `BV[8j+7:8j]` for each byte `j`, in
order, and changes nothing else (40_codec.md R415). -/
def Obligations.PackPushesBvBytes : Prop :=
  ∀ s : State, s.bvLen.toNat % 8 = 0 →
    s.bvLen.toNat / 8 ≤ s.params.outDepth - s.outFifo.length →
    exec .pack s = .next { s with
      outFifo := s.outFifo ++
        (List.range (s.bvLen.toNat / 8)).map fun j => s.bv.extractLsb' (8 * j) 8,
      pending := none, done := true }

/-- `UNPK n` then `PACK` moves `n` bytes from the input FIFO to the output FIFO unchanged and in order; and
`to_bits` and `from_bits` undo each other (40_codec.md R401, R420). -/
def Obligations.CodecRoundTrip : Prop :=
  (∀ m : List Byte, fromBits (toBits m) = m) ∧
  (∀ x : Bits, x.length % 8 = 0 → toBits (fromBits x) = x) ∧
  (∀ (s : State) (n : Nat), 1 ≤ n → n ≤ 8 → n ≤ s.inFifo.length →
    n ≤ s.params.outDepth - s.outFifo.length →
    ∃ r : BitVec 64, execAll [.unpk n, .pack] s = .next { s with
      bv := r, bvLen := BitVec.ofNat 7 (8 * n), inFifo := s.inFifo.drop n,
      outFifo := s.outFifo ++ s.inFifo.take n, pending := none, done := true })

/-! ### The message stream -/

/-- The padding amount is the least number of units that aligns the message in BYTE mode, and its closed
forms hold in both modes and both variants (41_chunker_stream.md R453, R454). -/
def Obligations.PaddingAmountClosedForms : Prop :=
  (∀ v m n, padAmount v m n = paddingUnits v m n) ∧
  (∀ v n, (8 * (n + padAmount v .byte n)) % blockWidth v = 0 ∧
    ∀ k, (8 * (n + k)) % blockWidth v = 0 → padAmount v .byte n ≤ k) ∧
  (∀ v n, padAmount v .bit n = (blockWidth v - (8 * n) % blockWidth v) % blockWidth v) ∧
  (∀ v m n, (8 * n) % blockWidth v = 0 → padAmount v m n = 0) ∧
  (∀ v m n, m = .bit ∧ padAmount v m n % 8 ≠ 0 ↔ v = .toy ∧ m = .bit ∧ n % 3 = 1)

/-- `MSGE` and `MSGD` start a message when the key is valid and the padding ends on a byte: the stream
state, `MSG_PAD` and `MSG_BLOCKS` are set, the block stays busy, `DONE` and everything else is unchanged
(41_chunker_stream.md R455, R456). -/
def Obligations.MessageStart : Prop :=
  ∀ (s : State) (dec : Bool), s.keyValid = true →
    paddingFits s.ctrl.variant s.ctrl.padMode s.msgLen.toNat →
    let pad := paddingUnits s.ctrl.variant s.ctrl.padMode s.msgLen.toNat
    ∃ t : State, t = { s with
        pending := none,
        stream := ⟨true, dec, [], [], s.msgLen.toNat, pad⟩,
        msgPad := BitVec.ofNat 8 pad, msgBlocks := 0 } ∧
      exec (if dec then .msgd else .msge) s = .next t ∧ t.busy = true ∧ t.msgPad.toNat = pad

/-- `MABT` ends any message, empties both FIFOs, sets `DONE` and changes nothing else, from `PENDING` and,
during a message, at once in the host's write (41_chunker_stream.md R470). -/
def Obligations.AbortEmptiesTheStream : Prop :=
  ∀ s : State, ∃ t : State,
    t = { s with
      inFifo := [], outFifo := [], pending := none, done := true,
      stream := ⟨false, s.stream.modeDec, [], [], 0, 0⟩ } ∧
    exec .mabt s = .next t ∧ t.busy = false ∧
    (s.stream.active = true → step (s.facingWrite 0x010 0x00000042) = .next t) ∧
    (s.pending = some 0x00000042 → step (s.facing .engine) = .next t)

/-- Drain, fill and pad: the first micro-step whose condition holds is taken, moves one byte or the filler
as its rule says, and changes nothing else (41_chunker_stream.md R460, R461, R463, R464). -/
def Obligations.DrainFillPadSteps : Prop :=
  ∀ s : State, s.pending = none → s.stream.active = true →
    (8 ≤ s.stream.obuf.length → s.outFifo.length < s.params.outDepth →
      step (s.facing .engine) = .next { s with
        outFifo := s.outFifo ++ [BitVec.ofNat 8 (val (s.stream.obuf.take 8))],
        stream := { s.stream with obuf := s.stream.obuf.drop 8 } }) ∧
    (¬(8 ≤ s.stream.obuf.length ∧ s.outFifo.length < s.params.outDepth) →
      s.stream.ibuf.length < blockWidth s.ctrl.variant →
      (∀ (b : Byte) (rest : List Byte), 0 < s.stream.bytesLeft → s.inFifo = b :: rest →
        step (s.facing .engine) = .next { s with
          inFifo := rest,
          stream := { s.stream with
            ibuf := s.stream.ibuf ++ (List.range 8).map b.getLsbD,
            bytesLeft := s.stream.bytesLeft - 1 } }) ∧
      (s.stream.bytesLeft = 0 → 0 < s.stream.padLeft → s.ctrl.padMode = .byte →
        step (s.facing .engine) = .next { s with
          stream := { s.stream with
            ibuf := s.stream.ibuf ++ (List.range 8).map s.ctrl.padByte.getLsbD,
            padLeft := s.stream.padLeft - 1 } }) ∧
      (s.stream.bytesLeft = 0 → 0 < s.stream.padLeft → s.ctrl.padMode = .bit →
        step (s.facing .engine) = .next { s with
          stream := { s.stream with
            ibuf := s.stream.ibuf ++ List.replicate s.stream.padLeft s.ctrl.padBit,
            padLeft := 0 } }))

/-- Block and finish: a full `IBUF` sends one block through IP, the rounds and FP (Full) or the rounds
alone (Toy) to `OBUF` and counts it; an empty stream ends the message, sets `DONE` and keeps `MSG_PAD`,
`MSG_BLOCKS` and `MSG_DECRYPT`; `MSG_BLOCKS` is then the padded message's length in blocks, in every state that
keeps count of its message (41_chunker_stream.md R462, R466). -/
def Obligations.BlockAndFinishSteps : Prop :=
  ∀ s : State, s.pending = none → s.stream.active = true →
    (∀ blk rest q, s.stream.ibuf = blk ++ rest → blk.length = blockWidth s.ctrl.variant →
      s.stream.obuf.length < 8 →
      (q = match s.ctrl.variant, s.stream.modeDec with
        | .toy, false => encBlock .toy s.roundKeySeqs (blk.take 6, blk.drop 6)
        | .toy, true => decBlock .toy s.roundKeySeqs (blk.take 6, blk.drop 6)
        | .full, false => encBlock .full s.roundKeySeqs
            ((applyTable blk tableIP).take 32, (applyTable blk tableIP).drop 32)
        | .full, true => decBlock .full s.roundKeySeqs
            ((applyTable blk tableIP).take 32, (applyTable blk tableIP).drop 32)) →
      step (s.facing .engine) = .next { s with
        msgBlocks := BitVec.ofNat 32 ((s.msgBlocks.toNat + 1) % 2 ^ 32),
        stream := { s.stream with
          ibuf := rest,
          obuf := s.stream.obuf ++ (match s.ctrl.variant with
            | .toy => q.1 ++ q.2
            | .full => applyTable (q.1 ++ q.2) tableFP) } }) ∧
    (s.stream.ibuf = [] → s.stream.bytesLeft = 0 → s.stream.padLeft = 0 → s.stream.obuf = [] →
      step (s.facing .engine) = .next { s with
        done := true, stream := { s.stream with active := false } } ∧
      (BlockCount s → s.msgBlocks.toNat = s.messageBits / blockWidth s.ctrl.variant))

/-- The transform of a block keeps its width, and decryption undoes encryption under the same round keys,
IP and FP included (41_chunker_stream.md R462, R475). -/
def Obligations.BlockTransformInverts : Prop :=
  ∀ (v : Variant) (dec : Bool) (keys : List Bits) (blk : Bits), blk.length = blockWidth v →
    (blockTransform v dec keys blk).length = blockWidth v ∧
    blockTransform v (!dec) keys (blockTransform v dec keys blk) = blk

/-- A stream that holds waits for the host: the output FIFO is full (`OUT_STALL`), or message bytes remain
and the input FIFO is empty (`IN_WAIT`); no other hold exists. A held engine's turn changes nothing; a pop,
or a push, lifts the hold. In `IN_WAIT` no micro-step is enabled; in `OUT_STALL` only fill and pad can be
(41_chunker_stream.md R460, R467; log 17). -/
def Obligations.HoldsAreStallOrWait : Prop :=
  ∀ s : State, StreamInv s → FieldsInRange s → s.stream.active = true → s.pending = none →
    (s.nextMicroStep = none → (s.outStall = true ∨ s.inWait = true) ∧
      step (s.facing .engine) = .next s) ∧
    ¬(s.outStall = true ∧ s.inWait = true) ∧
    (s.inWait = true → s.nextMicroStep = none ∧
      ∀ b : Byte, ({ s with inFifo := [b] } : State).nextMicroStep = some .fill) ∧
    (s.outStall = true → s.nextMicroStep ∈ [none, some .fill, some .pad] ∧
      ({ s with outFifo := s.outFifo.drop 1 } : State).nextMicroStep = some .drain)

/-- Each micro-step keeps the message's whole output, the bytes in the output FIFO included, when the input
FIFO holds every byte still to come (41_chunker_stream.md R450, R451, R460-R466). -/
def Obligations.MicroStepsKeepTheOutput : Prop :=
  ∀ s t : State, StreamInv s → s.stream.active = true → s.pending = none →
    s.stream.bytesLeft ≤ s.inFifo.length → step (s.facing .engine) = .next t →
    t.outputBits = s.outputBits ∧ t.stream.bytesLeft ≤ t.inFifo.length ∧
    t.roundKeySeqs = s.roundKeySeqs

/-- A message whose bytes are all in the input FIFO and whose output fits the output FIFO finishes: the
engine alone brings `BUSY` to 0 and `DONE` to 1, the output FIFO holds the whole output, the bytes beyond
the message stay in the input FIFO, no error is recorded, and `MSG_BLOCKS` has counted every block
(41_chunker_stream.md R455, R466, 70_reset_and_hazards.md R921). That the engine takes every step once the
agenda is empty is the model's choice (log 1). -/
def Obligations.ServedMessageFinishes : Prop :=
  ∀ s : State, StreamInv s → s.stream.active = true → s.pending = none → s.agenda = [] →
    s.stream.bytesLeft ≤ s.inFifo.length →
    8 * s.outFifo.length + s.stream.obuf.length + s.inputBits.length ≤ 8 * s.params.outDepth →
    ∃ (n : Nat) (t : State), Host.Core.run Sys2Proof.core n s = .next t ∧
      t.busy = false ∧ t.done = true ∧ t.error = s.error ∧
      toBits t.outFifo = s.outputBits ∧ t.inFifo = s.inFifo.drop s.stream.bytesLeft ∧
      8 * t.outFifo.length =
        8 * s.outFifo.length + s.stream.obuf.length + s.inputBits.length ∧
      t.msgBlocks = s.msgBlocks +
        BitVec.ofNat 32 (s.inputBits.length / blockWidth s.ctrl.variant) ∧
      (BlockCount s → t.msgBlocks.toNat = s.messageBits / blockWidth s.ctrl.variant)

/-- A message held in the input FIFO, whose output fits the output FIFO, is encrypted by `MSGE` into bytes
that `MSGD` turns back into the message followed by its filler (41_chunker_stream.md R475). That the engine
takes every step once the agenda is empty (log 1), and that the command words are placed in `PENDING`, where an
accepted write leaves them (log 2), are the model's choices. -/
def Obligations.StreamRoundTrip : Prop :=
  ∀ (s : State) (m : List Byte), StreamInv s → s.stream.active = false → s.agenda = [] →
    s.keyValid = true → s.inFifo = m → s.outFifo = [] → s.msgLen.toNat = m.length →
    paddingFits s.ctrl.variant s.ctrl.padMode m.length →
    let pad := paddingUnits s.ctrl.variant s.ctrl.padMode m.length
    let filler : List Byte := match s.ctrl.padMode with
      | .byte => List.replicate pad s.ctrl.padByte
      | .bit => List.replicate (pad / 8) (if s.ctrl.padBit then 0xFF else 0x00)
    m.length + filler.length ≤ s.params.outDepth →
    m.length + filler.length < 2 ^ 32 →
    ∃ (n₁ : Nat) (s₁ : State),
      Host.Core.run Sys2Proof.core n₁ { s with pending := some (encode .msge) } = .next s₁ ∧
      s₁.busy = false ∧ s₁.outFifo.length = m.length + filler.length ∧
      ∃ (n₂ : Nat) (s₂ : State),
        Host.Core.run Sys2Proof.core n₂ { s₁ with
          pending := some (encode .msgd), msgLen := BitVec.ofNat 32 s₁.outFifo.length,
          inFifo := s₁.outFifo, outFifo := [] } = .next s₂ ∧
        s₂.busy = false ∧ s₂.outFifo = m ++ filler ∧ s₂.msgPad = 0

/-! ### Errors and the register window -/

/-- What raising an error records, seen through the flags: the first error sets `ERR`, `ERRCODE`,
`ERR_SRC` and `ERR_INFO`; a later one sets only `ERR_MULTI`; nothing else changes
(60_exceptions.md R810). -/
def Obligations.RaisedErrorIsRecorded : Prop :=
  ∀ (s : State) (c : ErrorCode) (src : ErrorSource) (info : Word),
    let t := raiseError c src info s
    t = { s with error := t.error } ∧ t.errFlag = true ∧
    (s.errFlag = false → t.errCode = errorNumber c ∧ t.errSrc = decide (src = .access) ∧
      t.errInfo = info ∧ t.errMulti = false) ∧
    (s.errFlag = true → t.errMulti = true ∧ t.errCode = s.errCode ∧ t.errSrc = s.errSrc ∧
      t.errInfo = s.errInfo)

/-- A host write to `STATUS` clears the flags whose bits are 1, at any time, and does nothing else
(10_state.md R130). -/
def Obligations.StatusWriteClears : Prop :=
  ∀ (s : State) (w : Word), ∃ t : State,
    step (s.facingWrite 0x00C w) = .next t ∧ t = { s with done := t.done, error := t.error } ∧
    t.done = (s.done && !w.getLsbD 8) ∧
    t.errFlag = (s.errFlag && !w.getLsbD 9) ∧
    t.errMulti = (s.errMulti && !w.getLsbD 9 && !w.getLsbD 10) ∧
    t.errCode = (if w.getLsbD 9 then 0 else s.errCode) ∧
    t.errSrc = (s.errSrc && !w.getLsbD 9) ∧
    t.errInfo = (if w.getLsbD 9 then 0 else s.errInfo)

/-- The first error stays recorded until the host writes 1 to `STATUS.ERR` or the block is reset: any
other step leaves its code, source and information (10_state.md R126, 60_exceptions.md R840). -/
def Obligations.FirstErrorStaysUntilCleared : Prop :=
  ∀ (s t : State) (e : ErrorRecord), step s = .next t → s.error = some e →
    (∃ m, t.error = some { e with multi := m }) ∨
    (t.error = none ∧
      ((∃ w rest, s.agenda = .host (.write 4 0x00C w) :: rest ∧ w.getLsbD 9 = true) ∨
        t = resetBlock { s with agenda := s.agenda.tail }))

/-- A host write to a busy-locked register while busy is not performed and raises `SEQUENCE` with the
offset; the writes to `STATUS`, `CMD`, `RK_SEL` and `FIFO_IN` are never locked (10_state.md R160). -/
def Obligations.BusyLock : Prop :=
  (∀ (s : State) (off : Nat) (v : Word), s.busy = true →
    (off ∈ [0x008, 0x018, 0x01C, 0x020, 0x030, 0x034, 0x038, 0x03C, 0x040, 0x05C, 0x068] ∨
      ∃ i < 64, off = 0x100 + 4 * i) →
    step (s.facingWrite off v) =
      .next { s with error := recorded s.error .sequence .access (BitVec.ofNat 32 off) }) ∧
  (∀ (s : State) (v : Word),
    step (s.facingWrite 0x00C v) = .next (writeStatus v s) ∧
    step (s.facingWrite 0x024 v) = .next { s with rkSel := v.extractLsb' 0 5 } ∧
    step (s.facingWrite 0x050 v) = .next (pushIn v s) ∧
    step (s.facingWrite 0x010 v) = submit v s)

/-- An accepted write to `KEY_LO`, `KEY_HI` or `KEY_LEN` clears `KEY_VALID`, whatever is written; one to
`CTRL` clears it exactly when it changes `VARIANT` or `NROUNDS` (10_state.md R119, R135). -/
def Obligations.KeyWritesClearKeyValid : Prop :=
  ∀ (s : State) (v : Word), s.busy = false →
    (∀ off ∈ [0x018, 0x01C, 0x020], ∃ t, step (s.facingWrite off v) = .next t ∧ t.keyValid = false) ∧
    (∃ t, step (s.facingWrite 0x008 v) = .next t ∧
      (t.keyValid = true ↔ s.keyValid = true ∧ v.getLsbD 0 = decide (s.ctrl.variant = .toy) ∧
        v.extractLsb' 8 5 = s.ctrl.nrounds))

/-- A value written to a read-write register while idle is read back: whole where the register has 32
bits, with its reserved bits zero where it has fewer (10_state.md R118, R133-R148). A length field is
written below 128 here (log 7); above 64 it stores 64. -/
def Obligations.WrittenValuesReadBack : Prop :=
  ∀ (s : State) (v : Word), s.busy = false →
    (∀ off ∈ [0x018, 0x01C, 0x030, 0x034, 0x038, 0x03C, 0x05C], ∃ t u,
      step (s.facingWrite off v) = .next t ∧ step (t.facingRead off) = .next u ∧ u.readData = v) ∧
    (∀ off mask, (off, mask) ∈ [(0x008, 0x00FF1F1F), (0x024, 0x0000001F)] ∨
        (∃ i < 64, off = 0x100 + 4 * i ∧ mask = 0x0000003F) → ∃ t u,
      step (s.facingWrite off v) = .next t ∧ step (t.facingRead off) = .next u ∧
        u.readData = v &&& BitVec.ofNat 32 mask) ∧
    (∀ off ∈ [0x020, 0x040, 0x068], v.toNat < 128 → ∃ t u,
      step (s.facingWrite off v) = .next t ∧ step (t.facingRead off) = .next u ∧
        u.readData.toNat = min v.toNat 64)

/-- The read-only views: `ID`, `PARAM`, `ERR_INFO`, `MSG_PAD` and `MSG_BLOCKS` at any time, the round key that
`RK_SEL` selects and `RES` while idle (10_state.md R101, R102, R132, R137, R140, R145, R146, R161). -/
def Obligations.ReadOnlyRegisterValues : Prop :=
  ∀ s : State,
    ReadsAs s 0x000 0x46524501 ∧
    (s.params.Legal → ∃ v : Word, ReadsAs s 0x004 v ∧ v.toNat =
      s.params.inDepth + 2 ^ 8 * s.params.outDepth + 2 ^ 16 * s.params.toyR1Shift) ∧
    ReadsAs s 0x014 s.errInfo ∧ ReadsAs s 0x060 (s.msgPad.setWidth 32) ∧ ReadsAs s 0x064 s.msgBlocks ∧
    (s.busy = false →
      (∀ k, s.rkSel.toNat = k → 1 ≤ k → k ≤ 16 → ∀ (h : k - 1 < 16),
        ReadsAs s 0x028 (s.rkf[k - 1].extractLsb' 0 32) ∧
        ReadsAs s 0x02C ((s.rkf[k - 1].extractLsb' 32 16).setWidth 32)) ∧
      (s.rkSel.toNat = 0 ∨ 16 < s.rkSel.toNat → ReadsAs s 0x028 0 ∧ ReadsAs s 0x02C 0) ∧
      ReadsAs s 0x044 (s.res.extractLsb' 0 32) ∧ ReadsAs s 0x048 (s.res.extractLsb' 32 32) ∧
      ReadsAs s 0x04C (s.resLen.setWidth 32))

/-- Every bit of a read of `STATUS` is the flag the spec's table puts there, the other bits are 0
(10_state.md R120-R129). -/
def Obligations.StatusReadShowsTheFlags : Prop :=
  ∀ s : State, ∃ w : Word, step (s.facingRead 0x00C) = .next { s with readData := w } ∧
    w.getLsbD 0 = (s.pending.isSome || s.stream.active) ∧ w.getLsbD 1 = s.keyValid ∧
    w.getLsbD 2 = s.stream.active ∧ w.getLsbD 3 = s.stream.modeDec ∧
    w.getLsbD 4 = decide (s.stream.active = true ∧ 8 ≤ s.stream.obuf.length ∧
      s.outFifo.length = s.params.outDepth) ∧
    w.getLsbD 5 = decide (s.stream.active = true ∧ s.stream.obuf.length < 8 ∧
      s.stream.ibuf.length < blockWidth s.ctrl.variant ∧ 0 < s.stream.bytesLeft ∧ s.inFifo = []) ∧
    w.extractLsb' 6 2 = 0 ∧ w.getLsbD 8 = s.done ∧ w.getLsbD 9 = s.error.isSome ∧
    w.getLsbD 10 = s.errMulti ∧ w.getLsbD 11 = false ∧ w.extractLsb' 12 4 = s.errCode ∧
    w.getLsbD 16 = s.errSrc ∧ w.extractLsb' 17 15 = 0

/-- A read of `FIFO_STAT` shows the two levels and the full and empty flags (10_state.md R143). -/
def Obligations.FifoStatShowsTheLevels : Prop :=
  ∀ s : State, FieldsInRange s → ∃ w : Word, step (s.facingRead 0x058) = .next { s with readData := w } ∧
    (w.extractLsb' 0 8).toNat = s.inFifo.length ∧ (w.extractLsb' 8 8).toNat = s.outFifo.length ∧
    w.getLsbD 16 = decide (s.inFifo.length = s.params.inDepth) ∧
    w.getLsbD 17 = decide (s.inFifo = []) ∧
    w.getLsbD 18 = decide (s.outFifo.length = s.params.outDepth) ∧
    w.getLsbD 19 = decide (s.outFifo = []) ∧ w.extractLsb' 20 12 = 0

/-- A push adds the low byte at the tail of the input FIFO, or drops it with `FIFO_OVERFLOW` when the FIFO
is full, at any time (20_memory.md R220). -/
def Obligations.FifoPush : Prop :=
  ∀ (s : State) (w : Word),
    (s.inFifo.length ≠ s.params.inDepth →
      step (s.facingWrite 0x050 w) =
        .next { s with inFifo := s.inFifo ++ [w.extractLsb' 0 8] }) ∧
    (s.inFifo.length = s.params.inDepth →
      step (s.facingWrite 0x050 w) =
        .next { s with error := recorded s.error .fifoOverflow .access 0x050 })

/-- A pop returns the oldest byte of the output FIFO with `VALID` in bit 8 and removes it, or returns 0
with no error when the FIFO is empty, at any time (20_memory.md R221). -/
def Obligations.FifoPop : Prop :=
  ∀ s : State,
    (s.outFifo = [] → step (s.facingRead 0x054) = .next { s with readData := 0 }) ∧
    (∀ (b : Byte) (rest : List Byte), s.outFifo = b :: rest →
      step (s.facingRead 0x054) =
        .next { s with outFifo := rest, readData := BitVec.ofNat 32 (0x100 + b.toNat) })

/-- A reserved offset reads 0 and ignores writes; a write to a read-only register is ignored; a read of a
write-only register gives 0; none of these raises an error, busy or not (20_memory.md R203, R204). -/
def Obligations.IgnoredAccesses : Prop :=
  ∀ (s : State) (v : Word),
    (∀ i, 27 ≤ i → i < 64 → step (s.facingRead (4 * i)) = .next { s with readData := 0 } ∧
      step (s.facingWrite (4 * i) v) = .next s) ∧
    (∀ off ∈ [0x000, 0x004, 0x014, 0x028, 0x02C, 0x044, 0x048, 0x04C, 0x054, 0x058, 0x060, 0x064],
      step (s.facingWrite off v) = .next s) ∧
    (∀ off ∈ [0x010, 0x050], step (s.facingRead off) = .next { s with readData := 0 })

/-- While busy a read of `L`, `R`, `RES_LO`, `RES_HI`, `RES_LEN`, `RK_LO` or `RK_HI` returns a free draw, a
new one for every such read (log 4); when not busy each returns its register. No read of a register other than
`FIFO_OUT` changes the block (10_state.md R161, 20_memory.md R206). -/
def Obligations.ReadsWhileBusyAreFree : Prop :=
  (∀ (s : State) (off : Nat), s.busy = true → off ∈ [0x030, 0x034, 0x044, 0x048, 0x04C, 0x028, 0x02C] →
    step (s.facingRead off) =
      .next { s with readData := Config.freeRead s.freeCount, freeCount := s.freeCount + 1 }) ∧
  (∀ s : State, s.busy = false →
    ReadsAs s 0x030 s.halfL ∧ ReadsAs s 0x034 s.halfR ∧
    ReadsAs s 0x044 (s.res.extractLsb' 0 32) ∧ ReadsAs s 0x048 (s.res.extractLsb' 32 32) ∧
    ReadsAs s 0x04C (s.resLen.setWidth 32) ∧
    (∀ k (h : k < 16), s.rkSel.toNat = k + 1 →
      ReadsAs s 0x028 (s.rkf[k].extractLsb' 0 32) ∧
      ReadsAs s 0x02C ((s.rkf[k].extractLsb' 32 16).setWidth 32)) ∧
    (s.rkSel.toNat = 0 ∨ 16 < s.rkSel.toNat → ReadsAs s 0x028 0 ∧ ReadsAs s 0x02C 0)) ∧
  (∀ (s : State) (i : Nat), i < 128 → i ≠ 21 → ∃ (v : Word) (n : Nat),
    step (s.facingRead (4 * i)) = .next { s with readData := v, freeCount := n })

/-- An access of another width than 4 bytes, off alignment, or at or above 0x200 is refused, and every
other access is performed (20_memory.md R200, R214). -/
def Obligations.OnlyContractAccesses : Prop :=
  ∀ (s : State) (width off : Nat) (v : Word),
    (width = 4 ∧ off % 4 = 0 ∧ off < 0x200 →
      (∃ t, step (s.facing (.host (.read width off))) = .next t) ∧
      (∃ t, step (s.facing (.host (.write width off v))) = .next t)) ∧
    (¬(width = 4 ∧ off % 4 = 0 ∧ off < 0x200) →
      step (s.facing (.host (.read width off))) = .refused (.outsideContract width off) ∧
      step (s.facing (.host (.write width off v))) = .refused (.outsideContract width off))

/-- `IRQ` is high exactly while an enabled source is set. A completing command raises it under `IE_DONE`. Any
step that records an error, be it a failing command, a rejected one or a rejected access, raises it under
`IE_ERR`, and a pending word with a failing check does so. A write that clears every enabled source lowers it in
the same step (60_exceptions.md R830, R850). -/
def Obligations.InterruptOutput : Prop :=
  (∀ s : State, s.irq = true ↔
    (s.statusWord.getLsbD 8 = true ∧ (ctrlWord s.ctrl).getLsbD 3 = true) ∨
    (s.statusWord.getLsbD 9 = true ∧ (ctrlWord s.ctrl).getLsbD 4 = true)) ∧
  (∀ s t : State, s.ctrl.ieDone = true → s.busy = true → t.busy = false → step s = .next t →
    t.irq = true ∨ t = resetBlock { s with agenda := s.agenda.tail }) ∧
  (∀ s t : State, s.ctrl.ieErr = true → step s = .next t → t.error ≠ s.error → t.errFlag = true →
    t.irq = true) ∧
  (∀ (s : State) (w : Word) (c : ErrorCode), s.ctrl.ieErr = true → s.pending = some w →
    firstFailingCheck w s = some c → ∃ t, step (s.facing .engine) = .next t ∧ t.irq = true) ∧
  (∀ (s : State) (w : Word), (s.ctrl.ieDone = true → w.getLsbD 8 = true) →
    (s.ctrl.ieErr = true → w.getLsbD 9 = true) →
    ∃ t, step (s.facingWrite 0x00C w) = .next t ∧ t.irq = false)

/-! ### Whole-machine rules -/

/-- `DONE` marks completion: it becomes 1 whenever `BUSY` goes from 1 to 0, except by `SRST` and reset,
and, in states where no command is pending during a message, it becomes 1 on no other occasion
(10_state.md R125). -/
def Obligations.DoneMarksCompletion : Prop :=
  ∀ s t : State, step s = .next t →
    (s.busy = true → t.busy = false →
      t.done = true ∨ t = resetBlock { s with agenda := s.agenda.tail }) ∧
    (StreamInv s → s.done = false → t.done = true →
      s.busy = true ∧ t.busy = false)

/-- The round-key file changes only by `KEXP`, by `SRST` and by reset (44_key_schedule.md R605). -/
def Obligations.RoundKeysChangeOnlyByKexp : Prop :=
  ∀ s t : State, step s = .next t → t.rkf ≠ s.rkf →
    (∃ w, s.pending = some w ∧ decode w = .command .kexp) ∨
    t = resetBlock { s with agenda := s.agenda.tail }

/-- Only the fill step and `UNPK` consume from the input FIFO on the engine's turn, only the drain step and
`PACK` produce into the output FIFO, and `MABT` and `SRST` empty both (20_memory.md R223). -/
def Obligations.FifoTraffic : Prop :=
  ∀ s t : State, step (s.facing .engine) = .next t →
    (t.inFifo ≠ s.inFifo →
      (s.pending = none ∧ s.nextMicroStep = some .fill ∧ t.inFifo = s.inFifo.drop 1) ∨
      (∃ w n, s.pending = some w ∧ decode w = .command (.unpk n) ∧ t.inFifo = s.inFifo.drop n) ∨
      (∃ w, s.pending = some w ∧ (decode w = .command .mabt ∨ decode w = .command .srst) ∧
        t.inFifo = [])) ∧
    (t.outFifo ≠ s.outFifo →
      (s.pending = none ∧ s.nextMicroStep = some .drain ∧ ∃ b, t.outFifo = s.outFifo ++ [b]) ∨
      (∃ w bs, s.pending = some w ∧ decode w = .command .pack ∧ t.outFifo = s.outFifo ++ bs) ∨
      (∃ w, s.pending = some w ∧ (decode w = .command .mabt ∨ decode w = .command .srst) ∧
        t.outFifo = []))

/-- A running message raises no error and touches none of `CTRL`, the key registers, the round keys, `L`,
`R`, `BV`, `RES`, `UTAB`, `MSG_LEN` or `MSG_PAD` (60_exceptions.md R812, 10_state.md R153,
41_chunker_stream.md R462). -/
def Obligations.RunningMessageTouchesOnlyTheStream : Prop :=
  ∀ s t : State, s.pending = none → s.stream.active = true → step (s.facing .engine) = .next t →
    t = { s with
      stream := t.stream, inFifo := t.inFifo, outFifo := t.outFifo, msgBlocks := t.msgBlocks,
      done := t.done } ∧ t.stream.modeDec = s.stream.modeDec

/-- The engine writes none of `CTRL`, `KEY`, `KEY_LEN`, `MSG_LEN`, `UTAB`, `UTAB_LEN` and `RK_SEL`, and no
step at all changes the parameters (20_memory.md R232, 00_scope.md R7; `BV` is written by `UNPK`, log 8). -/
def Obligations.EngineLeavesHostRegisters : Prop :=
  (∀ s t : State, step (s.facing .engine) = .next t →
    (∀ w, s.pending = some w → decode w ≠ .command .srst) →
    t.ctrl = s.ctrl ∧ t.key = s.key ∧ t.keyLen = s.keyLen ∧ t.msgLen = s.msgLen ∧ t.utab = s.utab ∧
    t.utabLen = s.utabLen ∧ t.rkSel = s.rkSel) ∧
  (∀ s t : State, step s = .next t → t.params = s.params)

/-! ### Invariants that every step keeps -/

/-- The bounds of every field are kept by every step. -/
def Obligations.StepKeepsFieldsInRange : Prop :=
  ∀ s t : State, FieldsInRange s → step s = .next t → FieldsInRange t

/-- Every step keeps `KEY_VALID` coherent with the key, its length, the variant, the round count and the
round-key file (10_state.md R122, 20_memory.md R234). -/
def Obligations.StepKeepsKeyCoherent : Prop :=
  ∀ s t : State, KeyCoherent s → step s = .next t → KeyCoherent t

/-- Every step keeps the stream invariant, the buffer bounds of 41_chunker_stream.md R465 among it. -/
def Obligations.StepKeepsStreamInv : Prop :=
  ∀ s t : State, StreamInv s → step s = .next t → StreamInv t

/-- The invariants hold after reset, for every legal choice of parameters. -/
def Obligations.ResetSatisfiesInvariants : Prop :=
  ∀ p : Params, p.Legal →
    FieldsInRange (State.resetWith p) ∧ KeyCoherent (State.resetWith p) ∧
      StreamInv (State.resetWith p) ∧ BlockCount (State.resetWith p)

/-- Every step keeps the count of the message's blocks: the blocks processed, the bits gathered, the bytes
still to come and the filler still to come make up the padded message (10_state.md R146, 41_chunker_stream.md
R466). -/
def Obligations.StepKeepsBlockCount : Prop :=
  ∀ s t : State, BlockCount s → step s = .next t → BlockCount t

/-! ### The read-write registers -/

/-- A read of a read-write register other than `L` and `R` is exact at any time, busy or not, and changes
nothing: every bit of `CTRL`, and the whole value of `KEY_LO`, `KEY_HI`, `KEY_LEN`, `RK_SEL`, `BV_LO`, `BV_HI`,
`BV_LEN`, `MSG_LEN`, `UTAB_LEN` and `UTAB` (10_state.md R111-R118, R133, R134, R136, R139, R144, R147, R148, R161). -/
def Obligations.ReadWriteRegistersButLAndRReadExactly : Prop :=
  ∀ s : State,
    (∃ w : Word, ReadsAs s 0x008 w ∧
      w.getLsbD 0 = decide (s.ctrl.variant = .toy) ∧ w.getLsbD 1 = decide (s.ctrl.padMode = .bit) ∧
      w.getLsbD 2 = s.ctrl.padBit ∧ w.getLsbD 3 = s.ctrl.ieDone ∧ w.getLsbD 4 = s.ctrl.ieErr ∧
      w.extractLsb' 5 3 = 0 ∧ w.extractLsb' 8 5 = s.ctrl.nrounds ∧ w.extractLsb' 13 3 = 0 ∧
      w.extractLsb' 16 8 = s.ctrl.padByte ∧ w.extractLsb' 24 8 = 0) ∧
    ReadsAs s 0x018 (s.key.extractLsb' 0 32) ∧ ReadsAs s 0x01C (s.key.extractLsb' 32 32) ∧
    ReadsAs s 0x020 (s.keyLen.setWidth 32) ∧ ReadsAs s 0x024 (s.rkSel.setWidth 32) ∧
    ReadsAs s 0x038 (s.bv.extractLsb' 0 32) ∧ ReadsAs s 0x03C (s.bv.extractLsb' 32 32) ∧
    ReadsAs s 0x040 (s.bvLen.setWidth 32) ∧ ReadsAs s 0x05C s.msgLen ∧
    ReadsAs s 0x068 (s.utabLen.setWidth 32) ∧
    ∀ i (h : i < 64), ReadsAs s (0x100 + 4 * i) (s.utab[i].setWidth 32)

/-- An accepted write to a busy-locked register sets that register and changes nothing else, but for
`KEY_VALID`, which a change of `VARIANT` or `NROUNDS` and any write to a key register clear. A stored length is at
most 64; which bits of the written word it takes at 128 and above is left out here (log 7) (10_state.md R110-R119,
R133-R135, R138, R139, R144, R147, R148, 20_memory.md R207). -/
def Obligations.AcceptedWritesSetOnlyTheirRegister : Prop :=
  ∀ (s : State) (v : Word), s.busy = false →
    let writes : Nat → State → Prop := fun off t => step (s.facingWrite off v) = .next t
    let stored : BitVec 7 → Prop := fun n =>
      n.toNat ≤ 64 ∧ (v.toNat < 128 → n.toNat = min v.toNat 64)
    writes 0x008 { s with
      ctrl := {
        variant := if v.getLsbD 0 then .toy else .full, padMode := if v.getLsbD 1 then .bit else .byte,
        padBit := v.getLsbD 2, ieDone := v.getLsbD 3, ieErr := v.getLsbD 4,
        nrounds := v.extractLsb' 8 5, padByte := v.extractLsb' 16 8 },
      keyValid := s.keyValid && decide (v.getLsbD 0 = decide (s.ctrl.variant = .toy)) &&
        decide (v.extractLsb' 8 5 = s.ctrl.nrounds) } ∧
    writes 0x018 { s with key := s.key.extractLsb' 32 32 ++ v, keyValid := false } ∧
    writes 0x01C { s with key := v ++ s.key.extractLsb' 0 32, keyValid := false } ∧
    (∃ n, stored n ∧ writes 0x020 { s with keyLen := n, keyValid := false }) ∧
    writes 0x030 { s with halfL := v } ∧ writes 0x034 { s with halfR := v } ∧
    writes 0x038 { s with bv := s.bv.extractLsb' 32 32 ++ v } ∧
    writes 0x03C { s with bv := v ++ s.bv.extractLsb' 0 32 } ∧
    (∃ n, stored n ∧ writes 0x040 { s with bvLen := n }) ∧
    writes 0x05C { s with msgLen := v } ∧
    (∃ n, stored n ∧ writes 0x068 { s with utabLen := n }) ∧
    ∀ i (h : i < 64), ∃ utab : Vector (BitVec 6) 64, writes (0x100 + 4 * i) { s with utab := utab } ∧
      utab[i] = v.extractLsb' 0 6 ∧ ∀ j (_ : j < 64), j ≠ i → utab[j] = s.utab[j]
end

