-- ==== Sys2Proof/Laws/Seq.lean ====
section
/-! SUPPORT. Facts about bit sequences and register values (00_scope.md R9-R13). -/

namespace Sys2Proof.Machine

@[simp] theorem length_seqOf {w : Nat} (n : Nat) (v : BitVec w) : (seqOf n v).length = n := by
  simp [seqOf]

@[simp] theorem length_applyTable (s : Bits) (table : List Nat) :
    (applyTable s table).length = table.length := by simp [applyTable]

@[simp] theorem length_rotl (s : Bits) (k : Nat) : (rotl s k).length = s.length := by simp [rotl]

@[simp] theorem length_msbseq (n x : Nat) : (msbseq n x).length = n := by simp [msbseq]

@[simp] theorem length_xorBits (s t : Bits) :
    (xorBits s t).length = min s.length t.length := by simp [xorBits]

theorem getD_eq_getElem? (s : Bits) (j : Nat) : s.getD j false = (s[j]?).getD false := by
  simp [List.getD]

theorem getElem?_seqOf {w : Nat} (n : Nat) (v : BitVec w) (j : Nat) :
    (seqOf n v)[j]? = if j < n then some (v.getLsbD j) else none := by
  simp only [seqOf, List.getElem?_map]
  split
  · next h => rw [List.getElem?_range h]; rfl
  · next h => rw [List.getElem?_eq_none (by simpa using h)]; rfl

theorem getD_seqOf {w : Nat} (n : Nat) (v : BitVec w) (j : Nat) :
    (seqOf n v).getD j false = (decide (j < n) && v.getLsbD j) := by
  rw [getD_eq_getElem?, getElem?_seqOf]
  split <;> simp [*]

theorem getD_applyTable (s : Bits) (table : List Nat) (j : Nat) :
    (applyTable s table).getD j false =
      (decide (j < table.length) && s.getD (table.getD j 0) false) := by
  rw [getD_eq_getElem?]
  simp only [applyTable, List.getElem?_map]
  by_cases h : j < table.length
  · simp [h, List.getD]
  · simp [h]

theorem getD_rotl (s : Bits) (k j : Nat) :
    (rotl s k).getD j false =
      (decide (j < s.length) && s.getD ((j + k) % s.length) false) := by
  rw [getD_eq_getElem?]
  simp only [rotl, List.getElem?_map]
  by_cases h : j < s.length
  · rw [List.getElem?_range h]; simp [h]
  · rw [List.getElem?_eq_none (by simpa using h)]; simp [h]

theorem getD_xorBits (s t : Bits) (h : s.length = t.length) (j : Nat) :
    (xorBits s t).getD j false = (s.getD j false ^^ t.getD j false) := by
  simp only [xorBits, List.getD, List.getElem?_zipWith]
  by_cases hj : j < s.length
  · simp [List.getElem?_eq_getElem hj, List.getElem?_eq_getElem (h ▸ hj : j < t.length)]
  · simp [List.getElem?_eq_none (by omega : s.length ≤ j),
      List.getElem?_eq_none (by omega : t.length ≤ j)]

theorem getD_msbseq (n x j : Nat) (h : j < n) :
    (msbseq n x).getD j false = x.testBit (n - 1 - j) := by
  simp only [msbseq, List.getD]
  rw [List.getElem?_reverse (by simpa using h)]
  simp only [List.length_map, List.length_range, List.getElem?_map]
  rw [List.getElem?_range (by omega)]
  simp

theorem bits_ext {s t : Bits} (hl : s.length = t.length)
    (h : ∀ j < s.length, s.getD j false = t.getD j false) : s = t := by
  apply List.ext_getElem hl
  intro j h1 h2
  have := h j h1
  simpa [List.getD, List.getElem?_eq_getElem h1, List.getElem?_eq_getElem h2] using this

theorem val_lt (s : Bits) : val s < 2 ^ s.length := by
  induction s with
  | nil => simp [val]
  | cons b s ih =>
    have : b.toNat < 2 := by cases b <;> decide
    simp only [val, List.length_cons, Nat.pow_succ]
    omega

theorem testBit_val (s : Bits) (j : Nat) : (val s).testBit j = s.getD j false := by
  induction s generalizing j with
  | nil => simp [val]
  | cons b s ih =>
    cases j with
    | zero => cases b <;> simp [val, List.getD, Nat.testBit_zero]
    | succ j =>
      have hd : (b.toNat + 2 * val s) / 2 = val s := by
        have : b.toNat < 2 := by cases b <;> decide
        omega
      rw [val, Nat.testBit_succ, hd, ih]
      simp [List.getD]

theorem getLsbD_regOf (w : Nat) (s : Bits) (j : Nat) :
    (regOf w s).getLsbD j = (decide (j < w) && s.getD j false) := by
  simp [regOf, BitVec.getLsbD_ofNat, testBit_val]

/-- A sequence read back from the register it was written to (00_scope.md R10). -/
theorem seqOf_regOf {w n : Nat} (s : Bits) (h : s.length = n) (hw : n ≤ w) :
    seqOf n (regOf w s) = s := by
  apply bits_ext (by simp [h])
  intro j hj
  rw [length_seqOf] at hj
  rw [getD_seqOf, getLsbD_regOf]
  simp [hj, Nat.lt_of_lt_of_le hj hw]

/-- A register value written back from its own low sequence (00_scope.md R10). -/
theorem val_seqOf {w : Nat} (n : Nat) (v : BitVec w) : val (seqOf n v) = v.toNat % 2 ^ n := by
  apply Nat.eq_of_testBit_eq
  intro j
  rw [testBit_val, getD_seqOf, Nat.testBit_mod_two_pow, BitVec.testBit_toNat]

theorem toNat_regOf (w : Nat) (s : Bits) (h : s.length ≤ w) : (regOf w s).toNat = val s := by
  rw [regOf, BitVec.toNat_ofNat]
  exact Nat.mod_eq_of_lt (Nat.lt_of_lt_of_le (val_lt s) (Nat.pow_le_pow_right (by decide) h))

theorem xorBits_cancel (s t : Bits) (h : s.length = t.length) : xorBits (xorBits s t) t = s := by
  apply bits_ext (by simp [h])
  intro j _
  rw [getD_xorBits _ _ (by simp [h]), getD_xorBits _ _ h]
  cases s.getD j false <;> cases t.getD j false <;> rfl

/-- A rotation by the whole length is the identity (00_scope.md R12). -/
theorem rotl_rotl (s : Bits) (k l : Nat) : rotl (rotl s k) l = rotl s (k + l) := by
  apply bits_ext (by simp)
  intro j hj
  have hj : j < s.length := by simpa using hj
  have hm : (j + l) % s.length < s.length := Nat.mod_lt _ (by omega)
  simp only [getD_rotl, length_rotl, hj, hm, decide_true, Bool.true_and]
  rw [Nat.mod_add_mod]
  congr 2
  omega

end Sys2Proof.Machine
end

