-- ==== Sys2Proof/Laws/Codec.lean ====
section
/-! SUPPORT. The bits of a byte string, element by element (40_codec.md R400, R401). -/

namespace Sys2Proof.Machine

theorem toBits_cons (b : Byte) (m : List Byte) : toBits (b :: m) = seqOf 8 b ++ toBits m := by
  simp [toBits]

theorem toBits_append (a b : List Byte) : toBits (a ++ b) = toBits a ++ toBits b := by simp [toBits]

theorem length_toBits (m : List Byte) : (toBits m).length = 8 * m.length := by
  induction m with
  | nil => rfl
  | cons b m ih => rw [toBits_cons, List.length_append, length_seqOf, ih, List.length_cons]; omega

/-- Bit `b` of byte `j` is element `8j + b` (R400). -/
theorem getD_toBits (m : List Byte) (j : Nat) {b : Nat} (hb : b < 8) :
    (toBits m).getD (8 * j + b) false = (m.getD j 0).getLsbD b := by
  induction m generalizing j with
  | nil => simp [toBits]
  | cons c m ih =>
    rw [toBits_cons]
    cases j with
    | zero => rw [List.getD_append _ _ _ _ (by simp; exact hb), getD_seqOf]; simp [hb]
    | succ j =>
      rw [List.getD_append_right _ _ _ _ (by simp; omega),
        show 8 * (j + 1) + b - (seqOf 8 c).length = 8 * j + b by simp; omega, ih]
      simp [List.getD]

/-- A group of 8 bits is the bits of the byte it makes (R401). -/
theorem toBits_singleton {x : Bits} (h : x.length = 8) : toBits [regOf 8 x] = x := by
  rw [toBits_cons, seqOf_regOf x h (by decide)]
  simp [toBits]

/-- Byte `j` of a register that holds a byte string (20_memory.md R211). -/
theorem extractLsb'_regOf_toBits (m : List Byte) {j : Nat} (hj : j < 8) :
    (regOf 64 (toBits m)).extractLsb' (8 * j) 8 = m.getD j 0 := by
  apply BitVec.eq_of_getLsbD_eq
  intro b hb
  rw [BitVec.getLsbD_extractLsb', getLsbD_regOf, getD_toBits _ _ hb]
  have : 8 * j + b < 64 := by omega
  simp [this, hb]

theorem getD_drop_take (x : Bits) (a : Nat) {n j : Nat} (h : j < n) :
    ((x.drop a).take n).getD j false = x.getD (a + j) false := by
  simp [List.getD, h, List.getElem?_drop]

end Sys2Proof.Machine
end

