-- ==== Sys2Proof/Laws/Decode.lean ====
section
/-! SUPPORT. The fields of a command word as numbers, and what a decoded word says about them. -/

namespace Sys2Proof

theorem opcField_eq (w : Word) : opcField w = w.toNat % 256 := by
  simp [opcField, BitVec.extractLsb'_toNat]

theorem argField_eq (w : Word) : argField w = w.toNat / 256 % 256 := by
  simp [argField, BitVec.extractLsb'_toNat, Nat.shiftRight_eq_div_pow]

theorem rsvField_eq (w : Word) : rsvField w = w.toNat / 65536 := by
  have := w.isLt
  simp [rsvField, BitVec.extractLsb'_toNat, Nat.shiftRight_eq_div_pow]
  omega

theorem opcodeOf_lt (i : Instr) : opcodeOf i < 256 := by cases i <;> simp [opcodeOf]

theorem toNat_encode (i : Instr) : (encode i).toNat = argOf i % 256 * 256 + opcodeOf i := by
  have := opcodeOf_lt i
  rw [encode, BitVec.toNat_ofNat]
  omega

/-- The fields of an encoded command (30_encoding.md R300-R303). -/
theorem opcField_encode (i : Instr) : opcField (encode i) = opcodeOf i := by
  have := opcodeOf_lt i
  rw [opcField_eq, toNat_encode]
  omega

theorem argField_encode (i : Instr) : argField (encode i) = argOf i % 256 := by
  have := opcodeOf_lt i
  rw [argField_eq, toNat_encode]
  omega

theorem rsvField_encode (i : Instr) : rsvField (encode i) = 0 := by
  have := opcodeOf_lt i
  rw [rsvField_eq, toNat_encode]
  omega

theorem withoutArg_eq_command {i j : Instr} {a : Nat} :
    withoutArg i a = .command j ↔ a = 0 ∧ i = j := by
  unfold withoutArg
  split <;> simp [*]

/-- What a decoded opcode and argument say about the command (30_encoding.md R303). -/
theorem decodeOpcode_eq_command {op a : Nat} {i : Instr} (h : decodeOpcode op a = .command i) :
    op = opcodeOf i ∧ a = argOf i := by
  unfold decodeOpcode at h
  split at h <;>
    first
    | (obtain ⟨rfl, rfl⟩ := withoutArg_eq_command.mp h; exact ⟨rfl, rfl⟩)
    | (cases h; exact ⟨rfl, rfl⟩)
    | cases h

/-- The fields of a word that decodes to a command. -/
theorem fields_of_decode {w : Word} {i : Instr} (h : decode w = .command i) :
    rsvField w = 0 ∧ opcField w = opcodeOf i ∧ argField w = argOf i := by
  unfold decode at h
  split at h
  · next h0 => exact ⟨h0, decodeOpcode_eq_command h⟩
  · cases h

end Sys2Proof
end

