-- ==== Sys2Proof/Laws/State.lean ====
section
/-! SUPPORT. One lemma per field per update of the state, so that no proof unfolds a record update. -/

namespace Sys2Proof.Machine

/-! ### complete -/

@[simp] theorem complete_params (s : State) : (complete s).params = s.params := rfl
@[simp] theorem complete_ctrl (s : State) : (complete s).ctrl = s.ctrl := rfl
@[simp] theorem complete_keyValid (s : State) : (complete s).keyValid = s.keyValid := rfl
@[simp] theorem complete_done (s : State) : (complete s).done = true := rfl
@[simp] theorem complete_error (s : State) : (complete s).error = s.error := rfl
@[simp] theorem complete_pending (s : State) : (complete s).pending = none := rfl
@[simp] theorem complete_key (s : State) : (complete s).key = s.key := rfl
@[simp] theorem complete_keyLen (s : State) : (complete s).keyLen = s.keyLen := rfl
@[simp] theorem complete_rkSel (s : State) : (complete s).rkSel = s.rkSel := rfl
@[simp] theorem complete_rkf (s : State) : (complete s).rkf = s.rkf := rfl
@[simp] theorem complete_halfL (s : State) : (complete s).halfL = s.halfL := rfl
@[simp] theorem complete_halfR (s : State) : (complete s).halfR = s.halfR := rfl
@[simp] theorem complete_bv (s : State) : (complete s).bv = s.bv := rfl
@[simp] theorem complete_bvLen (s : State) : (complete s).bvLen = s.bvLen := rfl
@[simp] theorem complete_res (s : State) : (complete s).res = s.res := rfl
@[simp] theorem complete_resLen (s : State) : (complete s).resLen = s.resLen := rfl
@[simp] theorem complete_inFifo (s : State) : (complete s).inFifo = s.inFifo := rfl
@[simp] theorem complete_outFifo (s : State) : (complete s).outFifo = s.outFifo := rfl
@[simp] theorem complete_msgLen (s : State) : (complete s).msgLen = s.msgLen := rfl
@[simp] theorem complete_msgPad (s : State) : (complete s).msgPad = s.msgPad := rfl
@[simp] theorem complete_msgBlocks (s : State) : (complete s).msgBlocks = s.msgBlocks := rfl
@[simp] theorem complete_utabLen (s : State) : (complete s).utabLen = s.utabLen := rfl
@[simp] theorem complete_utab (s : State) : (complete s).utab = s.utab := rfl
@[simp] theorem complete_stream (s : State) : (complete s).stream = s.stream := rfl
@[simp] theorem complete_agenda (s : State) : (complete s).agenda = s.agenda := rfl
@[simp] theorem complete_readData (s : State) : (complete s).readData = s.readData := rfl
@[simp] theorem complete_freeCount (s : State) : (complete s).freeCount = s.freeCount := rfl

/-! ### raiseError -/

@[simp] theorem raiseError_params (c : ErrorCode) (src : ErrorSource) (info : Word) (s : State) :
    (raiseError c src info s).params = s.params := rfl
@[simp] theorem raiseError_ctrl (c : ErrorCode) (src : ErrorSource) (info : Word) (s : State) :
    (raiseError c src info s).ctrl = s.ctrl := rfl
@[simp] theorem raiseError_keyValid (c : ErrorCode) (src : ErrorSource) (info : Word) (s : State) :
    (raiseError c src info s).keyValid = s.keyValid := rfl
@[simp] theorem raiseError_done (c : ErrorCode) (src : ErrorSource) (info : Word) (s : State) :
    (raiseError c src info s).done = s.done := rfl
@[simp] theorem raiseError_pending (c : ErrorCode) (src : ErrorSource) (info : Word) (s : State) :
    (raiseError c src info s).pending = s.pending := rfl
@[simp] theorem raiseError_key (c : ErrorCode) (src : ErrorSource) (info : Word) (s : State) :
    (raiseError c src info s).key = s.key := rfl
@[simp] theorem raiseError_keyLen (c : ErrorCode) (src : ErrorSource) (info : Word) (s : State) :
    (raiseError c src info s).keyLen = s.keyLen := rfl
@[simp] theorem raiseError_rkSel (c : ErrorCode) (src : ErrorSource) (info : Word) (s : State) :
    (raiseError c src info s).rkSel = s.rkSel := rfl
@[simp] theorem raiseError_rkf (c : ErrorCode) (src : ErrorSource) (info : Word) (s : State) :
    (raiseError c src info s).rkf = s.rkf := rfl
@[simp] theorem raiseError_halfL (c : ErrorCode) (src : ErrorSource) (info : Word) (s : State) :
    (raiseError c src info s).halfL = s.halfL := rfl
@[simp] theorem raiseError_halfR (c : ErrorCode) (src : ErrorSource) (info : Word) (s : State) :
    (raiseError c src info s).halfR = s.halfR := rfl
@[simp] theorem raiseError_bv (c : ErrorCode) (src : ErrorSource) (info : Word) (s : State) :
    (raiseError c src info s).bv = s.bv := rfl
@[simp] theorem raiseError_bvLen (c : ErrorCode) (src : ErrorSource) (info : Word) (s : State) :
    (raiseError c src info s).bvLen = s.bvLen := rfl
@[simp] theorem raiseError_res (c : ErrorCode) (src : ErrorSource) (info : Word) (s : State) :
    (raiseError c src info s).res = s.res := rfl
@[simp] theorem raiseError_resLen (c : ErrorCode) (src : ErrorSource) (info : Word) (s : State) :
    (raiseError c src info s).resLen = s.resLen := rfl
@[simp] theorem raiseError_inFifo (c : ErrorCode) (src : ErrorSource) (info : Word) (s : State) :
    (raiseError c src info s).inFifo = s.inFifo := rfl
@[simp] theorem raiseError_outFifo (c : ErrorCode) (src : ErrorSource) (info : Word) (s : State) :
    (raiseError c src info s).outFifo = s.outFifo := rfl
@[simp] theorem raiseError_msgLen (c : ErrorCode) (src : ErrorSource) (info : Word) (s : State) :
    (raiseError c src info s).msgLen = s.msgLen := rfl
@[simp] theorem raiseError_msgPad (c : ErrorCode) (src : ErrorSource) (info : Word) (s : State) :
    (raiseError c src info s).msgPad = s.msgPad := rfl
@[simp] theorem raiseError_msgBlocks (c : ErrorCode) (src : ErrorSource) (info : Word) (s : State) :
    (raiseError c src info s).msgBlocks = s.msgBlocks := rfl
@[simp] theorem raiseError_utabLen (c : ErrorCode) (src : ErrorSource) (info : Word) (s : State) :
    (raiseError c src info s).utabLen = s.utabLen := rfl
@[simp] theorem raiseError_utab (c : ErrorCode) (src : ErrorSource) (info : Word) (s : State) :
    (raiseError c src info s).utab = s.utab := rfl
@[simp] theorem raiseError_stream (c : ErrorCode) (src : ErrorSource) (info : Word) (s : State) :
    (raiseError c src info s).stream = s.stream := rfl
@[simp] theorem raiseError_agenda (c : ErrorCode) (src : ErrorSource) (info : Word) (s : State) :
    (raiseError c src info s).agenda = s.agenda := rfl
@[simp] theorem raiseError_readData (c : ErrorCode) (src : ErrorSource) (info : Word) (s : State) :
    (raiseError c src info s).readData = s.readData := rfl
@[simp] theorem raiseError_freeCount (c : ErrorCode) (src : ErrorSource) (info : Word) (s : State) :
    (raiseError c src info s).freeCount = s.freeCount := rfl

/-! ### failCommand -/

@[simp] theorem failCommand_params (c : ErrorCode) (w : Word) (s : State) :
    (failCommand c w s).params = s.params := rfl
@[simp] theorem failCommand_ctrl (c : ErrorCode) (w : Word) (s : State) :
    (failCommand c w s).ctrl = s.ctrl := rfl
@[simp] theorem failCommand_keyValid (c : ErrorCode) (w : Word) (s : State) :
    (failCommand c w s).keyValid = s.keyValid := rfl
@[simp] theorem failCommand_done (c : ErrorCode) (w : Word) (s : State) :
    (failCommand c w s).done = true := rfl
@[simp] theorem failCommand_error (c : ErrorCode) (w : Word) (s : State) :
    (failCommand c w s).error = (raiseError c .command w s).error := rfl
@[simp] theorem failCommand_pending (c : ErrorCode) (w : Word) (s : State) :
    (failCommand c w s).pending = none := rfl
@[simp] theorem failCommand_key (c : ErrorCode) (w : Word) (s : State) :
    (failCommand c w s).key = s.key := rfl
@[simp] theorem failCommand_keyLen (c : ErrorCode) (w : Word) (s : State) :
    (failCommand c w s).keyLen = s.keyLen := rfl
@[simp] theorem failCommand_rkSel (c : ErrorCode) (w : Word) (s : State) :
    (failCommand c w s).rkSel = s.rkSel := rfl
@[simp] theorem failCommand_rkf (c : ErrorCode) (w : Word) (s : State) :
    (failCommand c w s).rkf = s.rkf := rfl
@[simp] theorem failCommand_halfL (c : ErrorCode) (w : Word) (s : State) :
    (failCommand c w s).halfL = s.halfL := rfl
@[simp] theorem failCommand_halfR (c : ErrorCode) (w : Word) (s : State) :
    (failCommand c w s).halfR = s.halfR := rfl
@[simp] theorem failCommand_bv (c : ErrorCode) (w : Word) (s : State) :
    (failCommand c w s).bv = s.bv := rfl
@[simp] theorem failCommand_bvLen (c : ErrorCode) (w : Word) (s : State) :
    (failCommand c w s).bvLen = s.bvLen := rfl
@[simp] theorem failCommand_res (c : ErrorCode) (w : Word) (s : State) :
    (failCommand c w s).res = s.res := rfl
@[simp] theorem failCommand_resLen (c : ErrorCode) (w : Word) (s : State) :
    (failCommand c w s).resLen = s.resLen := rfl
@[simp] theorem failCommand_inFifo (c : ErrorCode) (w : Word) (s : State) :
    (failCommand c w s).inFifo = s.inFifo := rfl
@[simp] theorem failCommand_outFifo (c : ErrorCode) (w : Word) (s : State) :
    (failCommand c w s).outFifo = s.outFifo := rfl
@[simp] theorem failCommand_msgLen (c : ErrorCode) (w : Word) (s : State) :
    (failCommand c w s).msgLen = s.msgLen := rfl
@[simp] theorem failCommand_msgPad (c : ErrorCode) (w : Word) (s : State) :
    (failCommand c w s).msgPad = s.msgPad := rfl
@[simp] theorem failCommand_msgBlocks (c : ErrorCode) (w : Word) (s : State) :
    (failCommand c w s).msgBlocks = s.msgBlocks := rfl
@[simp] theorem failCommand_utabLen (c : ErrorCode) (w : Word) (s : State) :
    (failCommand c w s).utabLen = s.utabLen := rfl
@[simp] theorem failCommand_utab (c : ErrorCode) (w : Word) (s : State) :
    (failCommand c w s).utab = s.utab := rfl
@[simp] theorem failCommand_stream (c : ErrorCode) (w : Word) (s : State) :
    (failCommand c w s).stream = s.stream := rfl
@[simp] theorem failCommand_agenda (c : ErrorCode) (w : Word) (s : State) :
    (failCommand c w s).agenda = s.agenda := rfl
@[simp] theorem failCommand_readData (c : ErrorCode) (w : Word) (s : State) :
    (failCommand c w s).readData = s.readData := rfl
@[simp] theorem failCommand_freeCount (c : ErrorCode) (w : Word) (s : State) :
    (failCommand c w s).freeCount = s.freeCount := rfl

/-! ### writeStatus -/

@[simp] theorem writeStatus_params (w : Word) (s : State) :
    (writeStatus w s).params = s.params := rfl
@[simp] theorem writeStatus_ctrl (w : Word) (s : State) : (writeStatus w s).ctrl = s.ctrl := rfl
@[simp] theorem writeStatus_keyValid (w : Word) (s : State) :
    (writeStatus w s).keyValid = s.keyValid := rfl
@[simp] theorem writeStatus_done (w : Word) (s : State) :
    (writeStatus w s).done = (s.done && !w.getLsbD 8) := rfl
@[simp] theorem writeStatus_pending (w : Word) (s : State) :
    (writeStatus w s).pending = s.pending := rfl
@[simp] theorem writeStatus_key (w : Word) (s : State) : (writeStatus w s).key = s.key := rfl
@[simp] theorem writeStatus_keyLen (w : Word) (s : State) :
    (writeStatus w s).keyLen = s.keyLen := rfl
@[simp] theorem writeStatus_rkSel (w : Word) (s : State) : (writeStatus w s).rkSel = s.rkSel := rfl
@[simp] theorem writeStatus_rkf (w : Word) (s : State) : (writeStatus w s).rkf = s.rkf := rfl
@[simp] theorem writeStatus_halfL (w : Word) (s : State) : (writeStatus w s).halfL = s.halfL := rfl
@[simp] theorem writeStatus_halfR (w : Word) (s : State) : (writeStatus w s).halfR = s.halfR := rfl
@[simp] theorem writeStatus_bv (w : Word) (s : State) : (writeStatus w s).bv = s.bv := rfl
@[simp] theorem writeStatus_bvLen (w : Word) (s : State) : (writeStatus w s).bvLen = s.bvLen := rfl
@[simp] theorem writeStatus_res (w : Word) (s : State) : (writeStatus w s).res = s.res := rfl
@[simp] theorem writeStatus_resLen (w : Word) (s : State) :
    (writeStatus w s).resLen = s.resLen := rfl
@[simp] theorem writeStatus_inFifo (w : Word) (s : State) :
    (writeStatus w s).inFifo = s.inFifo := rfl
@[simp] theorem writeStatus_outFifo (w : Word) (s : State) :
    (writeStatus w s).outFifo = s.outFifo := rfl
@[simp] theorem writeStatus_msgLen (w : Word) (s : State) :
    (writeStatus w s).msgLen = s.msgLen := rfl
@[simp] theorem writeStatus_msgPad (w : Word) (s : State) :
    (writeStatus w s).msgPad = s.msgPad := rfl
@[simp] theorem writeStatus_msgBlocks (w : Word) (s : State) :
    (writeStatus w s).msgBlocks = s.msgBlocks := rfl
@[simp] theorem writeStatus_utabLen (w : Word) (s : State) :
    (writeStatus w s).utabLen = s.utabLen := rfl
@[simp] theorem writeStatus_utab (w : Word) (s : State) : (writeStatus w s).utab = s.utab := rfl
@[simp] theorem writeStatus_stream (w : Word) (s : State) :
    (writeStatus w s).stream = s.stream := rfl
@[simp] theorem writeStatus_agenda (w : Word) (s : State) :
    (writeStatus w s).agenda = s.agenda := rfl
@[simp] theorem writeStatus_readData (w : Word) (s : State) :
    (writeStatus w s).readData = s.readData := rfl
@[simp] theorem writeStatus_freeCount (w : Word) (s : State) :
    (writeStatus w s).freeCount = s.freeCount := rfl

/-! ### writeRes -/

@[simp] theorem writeRes_params (o : Bits) (s : State) : (writeRes o s).params = s.params := rfl
@[simp] theorem writeRes_ctrl (o : Bits) (s : State) : (writeRes o s).ctrl = s.ctrl := rfl
@[simp] theorem writeRes_keyValid (o : Bits) (s : State) :
    (writeRes o s).keyValid = s.keyValid := rfl
@[simp] theorem writeRes_done (o : Bits) (s : State) : (writeRes o s).done = s.done := rfl
@[simp] theorem writeRes_error (o : Bits) (s : State) : (writeRes o s).error = s.error := rfl
@[simp] theorem writeRes_pending (o : Bits) (s : State) : (writeRes o s).pending = s.pending := rfl
@[simp] theorem writeRes_key (o : Bits) (s : State) : (writeRes o s).key = s.key := rfl
@[simp] theorem writeRes_keyLen (o : Bits) (s : State) : (writeRes o s).keyLen = s.keyLen := rfl
@[simp] theorem writeRes_rkSel (o : Bits) (s : State) : (writeRes o s).rkSel = s.rkSel := rfl
@[simp] theorem writeRes_rkf (o : Bits) (s : State) : (writeRes o s).rkf = s.rkf := rfl
@[simp] theorem writeRes_halfL (o : Bits) (s : State) : (writeRes o s).halfL = s.halfL := rfl
@[simp] theorem writeRes_halfR (o : Bits) (s : State) : (writeRes o s).halfR = s.halfR := rfl
@[simp] theorem writeRes_bv (o : Bits) (s : State) : (writeRes o s).bv = s.bv := rfl
@[simp] theorem writeRes_bvLen (o : Bits) (s : State) : (writeRes o s).bvLen = s.bvLen := rfl
@[simp] theorem writeRes_res (o : Bits) (s : State) : (writeRes o s).res = regOf 64 o := rfl
@[simp] theorem writeRes_resLen (o : Bits) (s : State) :
    (writeRes o s).resLen = BitVec.ofNat 7 o.length := rfl
@[simp] theorem writeRes_inFifo (o : Bits) (s : State) : (writeRes o s).inFifo = s.inFifo := rfl
@[simp] theorem writeRes_outFifo (o : Bits) (s : State) : (writeRes o s).outFifo = s.outFifo := rfl
@[simp] theorem writeRes_msgLen (o : Bits) (s : State) : (writeRes o s).msgLen = s.msgLen := rfl
@[simp] theorem writeRes_msgPad (o : Bits) (s : State) : (writeRes o s).msgPad = s.msgPad := rfl
@[simp] theorem writeRes_msgBlocks (o : Bits) (s : State) :
    (writeRes o s).msgBlocks = s.msgBlocks := rfl
@[simp] theorem writeRes_utabLen (o : Bits) (s : State) : (writeRes o s).utabLen = s.utabLen := rfl
@[simp] theorem writeRes_utab (o : Bits) (s : State) : (writeRes o s).utab = s.utab := rfl
@[simp] theorem writeRes_stream (o : Bits) (s : State) : (writeRes o s).stream = s.stream := rfl
@[simp] theorem writeRes_agenda (o : Bits) (s : State) : (writeRes o s).agenda = s.agenda := rfl
@[simp] theorem writeRes_readData (o : Bits) (s : State) :
    (writeRes o s).readData = s.readData := rfl
@[simp] theorem writeRes_freeCount (o : Bits) (s : State) :
    (writeRes o s).freeCount = s.freeCount := rfl

/-! ### writeHalves -/

@[simp] theorem writeHalves_params (p : Bits × Bits) (s : State) :
    (writeHalves p s).params = s.params := rfl
@[simp] theorem writeHalves_ctrl (p : Bits × Bits) (s : State) :
    (writeHalves p s).ctrl = s.ctrl := rfl
@[simp] theorem writeHalves_keyValid (p : Bits × Bits) (s : State) :
    (writeHalves p s).keyValid = s.keyValid := rfl
@[simp] theorem writeHalves_done (p : Bits × Bits) (s : State) :
    (writeHalves p s).done = s.done := rfl
@[simp] theorem writeHalves_error (p : Bits × Bits) (s : State) :
    (writeHalves p s).error = s.error := rfl
@[simp] theorem writeHalves_pending (p : Bits × Bits) (s : State) :
    (writeHalves p s).pending = s.pending := rfl
@[simp] theorem writeHalves_key (p : Bits × Bits) (s : State) : (writeHalves p s).key = s.key := rfl
@[simp] theorem writeHalves_keyLen (p : Bits × Bits) (s : State) :
    (writeHalves p s).keyLen = s.keyLen := rfl
@[simp] theorem writeHalves_rkSel (p : Bits × Bits) (s : State) :
    (writeHalves p s).rkSel = s.rkSel := rfl
@[simp] theorem writeHalves_rkf (p : Bits × Bits) (s : State) : (writeHalves p s).rkf = s.rkf := rfl
@[simp] theorem writeHalves_halfL (p : Bits × Bits) (s : State) :
    (writeHalves p s).halfL = regOf 32 p.1 := rfl
@[simp] theorem writeHalves_halfR (p : Bits × Bits) (s : State) :
    (writeHalves p s).halfR = regOf 32 p.2 := rfl
@[simp] theorem writeHalves_bv (p : Bits × Bits) (s : State) : (writeHalves p s).bv = s.bv := rfl
@[simp] theorem writeHalves_bvLen (p : Bits × Bits) (s : State) :
    (writeHalves p s).bvLen = s.bvLen := rfl
@[simp] theorem writeHalves_res (p : Bits × Bits) (s : State) : (writeHalves p s).res = s.res := rfl
@[simp] theorem writeHalves_resLen (p : Bits × Bits) (s : State) :
    (writeHalves p s).resLen = s.resLen := rfl
@[simp] theorem writeHalves_inFifo (p : Bits × Bits) (s : State) :
    (writeHalves p s).inFifo = s.inFifo := rfl
@[simp] theorem writeHalves_outFifo (p : Bits × Bits) (s : State) :
    (writeHalves p s).outFifo = s.outFifo := rfl
@[simp] theorem writeHalves_msgLen (p : Bits × Bits) (s : State) :
    (writeHalves p s).msgLen = s.msgLen := rfl
@[simp] theorem writeHalves_msgPad (p : Bits × Bits) (s : State) :
    (writeHalves p s).msgPad = s.msgPad := rfl
@[simp] theorem writeHalves_msgBlocks (p : Bits × Bits) (s : State) :
    (writeHalves p s).msgBlocks = s.msgBlocks := rfl
@[simp] theorem writeHalves_utabLen (p : Bits × Bits) (s : State) :
    (writeHalves p s).utabLen = s.utabLen := rfl
@[simp] theorem writeHalves_utab (p : Bits × Bits) (s : State) :
    (writeHalves p s).utab = s.utab := rfl
@[simp] theorem writeHalves_stream (p : Bits × Bits) (s : State) :
    (writeHalves p s).stream = s.stream := rfl
@[simp] theorem writeHalves_agenda (p : Bits × Bits) (s : State) :
    (writeHalves p s).agenda = s.agenda := rfl
@[simp] theorem writeHalves_readData (p : Bits × Bits) (s : State) :
    (writeHalves p s).readData = s.readData := rfl
@[simp] theorem writeHalves_freeCount (p : Bits × Bits) (s : State) :
    (writeHalves p s).freeCount = s.freeCount := rfl

/-! ### startMessage -/

@[simp] theorem startMessage_params (dec : Bool) (s : State) :
    (startMessage dec s).params = s.params := rfl
@[simp] theorem startMessage_ctrl (dec : Bool) (s : State) :
    (startMessage dec s).ctrl = s.ctrl := rfl
@[simp] theorem startMessage_keyValid (dec : Bool) (s : State) :
    (startMessage dec s).keyValid = s.keyValid := rfl
@[simp] theorem startMessage_done (dec : Bool) (s : State) :
    (startMessage dec s).done = s.done := rfl
@[simp] theorem startMessage_error (dec : Bool) (s : State) :
    (startMessage dec s).error = s.error := rfl
@[simp] theorem startMessage_pending (dec : Bool) (s : State) :
    (startMessage dec s).pending = none := rfl
@[simp] theorem startMessage_key (dec : Bool) (s : State) : (startMessage dec s).key = s.key := rfl
@[simp] theorem startMessage_keyLen (dec : Bool) (s : State) :
    (startMessage dec s).keyLen = s.keyLen := rfl
@[simp] theorem startMessage_rkSel (dec : Bool) (s : State) :
    (startMessage dec s).rkSel = s.rkSel := rfl
@[simp] theorem startMessage_rkf (dec : Bool) (s : State) : (startMessage dec s).rkf = s.rkf := rfl
@[simp] theorem startMessage_halfL (dec : Bool) (s : State) :
    (startMessage dec s).halfL = s.halfL := rfl
@[simp] theorem startMessage_halfR (dec : Bool) (s : State) :
    (startMessage dec s).halfR = s.halfR := rfl
@[simp] theorem startMessage_bv (dec : Bool) (s : State) : (startMessage dec s).bv = s.bv := rfl
@[simp] theorem startMessage_bvLen (dec : Bool) (s : State) :
    (startMessage dec s).bvLen = s.bvLen := rfl
@[simp] theorem startMessage_res (dec : Bool) (s : State) : (startMessage dec s).res = s.res := rfl
@[simp] theorem startMessage_resLen (dec : Bool) (s : State) :
    (startMessage dec s).resLen = s.resLen := rfl
@[simp] theorem startMessage_inFifo (dec : Bool) (s : State) :
    (startMessage dec s).inFifo = s.inFifo := rfl
@[simp] theorem startMessage_outFifo (dec : Bool) (s : State) :
    (startMessage dec s).outFifo = s.outFifo := rfl
@[simp] theorem startMessage_msgLen (dec : Bool) (s : State) :
    (startMessage dec s).msgLen = s.msgLen := rfl
@[simp] theorem startMessage_msgPad (dec : Bool) (s : State) :
    (startMessage dec s).msgPad = BitVec.ofNat 8 s.padFor := rfl
@[simp] theorem startMessage_msgBlocks (dec : Bool) (s : State) :
    (startMessage dec s).msgBlocks = 0 := rfl
@[simp] theorem startMessage_utabLen (dec : Bool) (s : State) :
    (startMessage dec s).utabLen = s.utabLen := rfl
@[simp] theorem startMessage_utab (dec : Bool) (s : State) :
    (startMessage dec s).utab = s.utab := rfl
@[simp] theorem startMessage_stream (dec : Bool) (s : State) :
    (startMessage dec s).stream = ⟨true, dec, [], [], s.msgLen.toNat, s.padFor⟩ := rfl
@[simp] theorem startMessage_agenda (dec : Bool) (s : State) :
    (startMessage dec s).agenda = s.agenda := rfl
@[simp] theorem startMessage_readData (dec : Bool) (s : State) :
    (startMessage dec s).readData = s.readData := rfl
@[simp] theorem startMessage_freeCount (dec : Bool) (s : State) :
    (startMessage dec s).freeCount = s.freeCount := rfl

/-! ### drainStep -/

@[simp] theorem drainStep_params (s : State) : (drainStep s).params = s.params := rfl
@[simp] theorem drainStep_ctrl (s : State) : (drainStep s).ctrl = s.ctrl := rfl
@[simp] theorem drainStep_keyValid (s : State) : (drainStep s).keyValid = s.keyValid := rfl
@[simp] theorem drainStep_done (s : State) : (drainStep s).done = s.done := rfl
@[simp] theorem drainStep_error (s : State) : (drainStep s).error = s.error := rfl
@[simp] theorem drainStep_pending (s : State) : (drainStep s).pending = s.pending := rfl
@[simp] theorem drainStep_key (s : State) : (drainStep s).key = s.key := rfl
@[simp] theorem drainStep_keyLen (s : State) : (drainStep s).keyLen = s.keyLen := rfl
@[simp] theorem drainStep_rkSel (s : State) : (drainStep s).rkSel = s.rkSel := rfl
@[simp] theorem drainStep_rkf (s : State) : (drainStep s).rkf = s.rkf := rfl
@[simp] theorem drainStep_halfL (s : State) : (drainStep s).halfL = s.halfL := rfl
@[simp] theorem drainStep_halfR (s : State) : (drainStep s).halfR = s.halfR := rfl
@[simp] theorem drainStep_bv (s : State) : (drainStep s).bv = s.bv := rfl
@[simp] theorem drainStep_bvLen (s : State) : (drainStep s).bvLen = s.bvLen := rfl
@[simp] theorem drainStep_res (s : State) : (drainStep s).res = s.res := rfl
@[simp] theorem drainStep_resLen (s : State) : (drainStep s).resLen = s.resLen := rfl
@[simp] theorem drainStep_inFifo (s : State) : (drainStep s).inFifo = s.inFifo := rfl
@[simp] theorem drainStep_outFifo (s : State) :
    (drainStep s).outFifo = s.outFifo ++ [regOf 8 (s.stream.obuf.take 8)] := rfl
@[simp] theorem drainStep_msgLen (s : State) : (drainStep s).msgLen = s.msgLen := rfl
@[simp] theorem drainStep_msgPad (s : State) : (drainStep s).msgPad = s.msgPad := rfl
@[simp] theorem drainStep_msgBlocks (s : State) : (drainStep s).msgBlocks = s.msgBlocks := rfl
@[simp] theorem drainStep_utabLen (s : State) : (drainStep s).utabLen = s.utabLen := rfl
@[simp] theorem drainStep_utab (s : State) : (drainStep s).utab = s.utab := rfl
@[simp] theorem drainStep_stream (s : State) :
    (drainStep s).stream = { s.stream with obuf := s.stream.obuf.drop 8 } := rfl
@[simp] theorem drainStep_agenda (s : State) : (drainStep s).agenda = s.agenda := rfl
@[simp] theorem drainStep_readData (s : State) : (drainStep s).readData = s.readData := rfl
@[simp] theorem drainStep_freeCount (s : State) : (drainStep s).freeCount = s.freeCount := rfl

/-! ### blockStep -/

@[simp] theorem blockStep_params (s : State) : (blockStep s).params = s.params := rfl
@[simp] theorem blockStep_ctrl (s : State) : (blockStep s).ctrl = s.ctrl := rfl
@[simp] theorem blockStep_keyValid (s : State) : (blockStep s).keyValid = s.keyValid := rfl
@[simp] theorem blockStep_done (s : State) : (blockStep s).done = s.done := rfl
@[simp] theorem blockStep_error (s : State) : (blockStep s).error = s.error := rfl
@[simp] theorem blockStep_pending (s : State) : (blockStep s).pending = s.pending := rfl
@[simp] theorem blockStep_key (s : State) : (blockStep s).key = s.key := rfl
@[simp] theorem blockStep_keyLen (s : State) : (blockStep s).keyLen = s.keyLen := rfl
@[simp] theorem blockStep_rkSel (s : State) : (blockStep s).rkSel = s.rkSel := rfl
@[simp] theorem blockStep_rkf (s : State) : (blockStep s).rkf = s.rkf := rfl
@[simp] theorem blockStep_halfL (s : State) : (blockStep s).halfL = s.halfL := rfl
@[simp] theorem blockStep_halfR (s : State) : (blockStep s).halfR = s.halfR := rfl
@[simp] theorem blockStep_bv (s : State) : (blockStep s).bv = s.bv := rfl
@[simp] theorem blockStep_bvLen (s : State) : (blockStep s).bvLen = s.bvLen := rfl
@[simp] theorem blockStep_res (s : State) : (blockStep s).res = s.res := rfl
@[simp] theorem blockStep_resLen (s : State) : (blockStep s).resLen = s.resLen := rfl
@[simp] theorem blockStep_inFifo (s : State) : (blockStep s).inFifo = s.inFifo := rfl
@[simp] theorem blockStep_outFifo (s : State) : (blockStep s).outFifo = s.outFifo := rfl
@[simp] theorem blockStep_msgLen (s : State) : (blockStep s).msgLen = s.msgLen := rfl
@[simp] theorem blockStep_msgPad (s : State) : (blockStep s).msgPad = s.msgPad := rfl
@[simp] theorem blockStep_msgBlocks (s : State) : (blockStep s).msgBlocks = s.msgBlocks + 1 := rfl
@[simp] theorem blockStep_utabLen (s : State) : (blockStep s).utabLen = s.utabLen := rfl
@[simp] theorem blockStep_utab (s : State) : (blockStep s).utab = s.utab := rfl
@[simp] theorem blockStep_agenda (s : State) : (blockStep s).agenda = s.agenda := rfl
@[simp] theorem blockStep_readData (s : State) : (blockStep s).readData = s.readData := rfl
@[simp] theorem blockStep_freeCount (s : State) : (blockStep s).freeCount = s.freeCount := rfl

/-! ### fillStep -/

@[simp] theorem fillStep_params (s : State) : (fillStep s).params = s.params := rfl
@[simp] theorem fillStep_ctrl (s : State) : (fillStep s).ctrl = s.ctrl := rfl
@[simp] theorem fillStep_keyValid (s : State) : (fillStep s).keyValid = s.keyValid := rfl
@[simp] theorem fillStep_done (s : State) : (fillStep s).done = s.done := rfl
@[simp] theorem fillStep_error (s : State) : (fillStep s).error = s.error := rfl
@[simp] theorem fillStep_pending (s : State) : (fillStep s).pending = s.pending := rfl
@[simp] theorem fillStep_key (s : State) : (fillStep s).key = s.key := rfl
@[simp] theorem fillStep_keyLen (s : State) : (fillStep s).keyLen = s.keyLen := rfl
@[simp] theorem fillStep_rkSel (s : State) : (fillStep s).rkSel = s.rkSel := rfl
@[simp] theorem fillStep_rkf (s : State) : (fillStep s).rkf = s.rkf := rfl
@[simp] theorem fillStep_halfL (s : State) : (fillStep s).halfL = s.halfL := rfl
@[simp] theorem fillStep_halfR (s : State) : (fillStep s).halfR = s.halfR := rfl
@[simp] theorem fillStep_bv (s : State) : (fillStep s).bv = s.bv := rfl
@[simp] theorem fillStep_bvLen (s : State) : (fillStep s).bvLen = s.bvLen := rfl
@[simp] theorem fillStep_res (s : State) : (fillStep s).res = s.res := rfl
@[simp] theorem fillStep_resLen (s : State) : (fillStep s).resLen = s.resLen := rfl
@[simp] theorem fillStep_inFifo (s : State) : (fillStep s).inFifo = s.inFifo.drop 1 := rfl
@[simp] theorem fillStep_outFifo (s : State) : (fillStep s).outFifo = s.outFifo := rfl
@[simp] theorem fillStep_msgLen (s : State) : (fillStep s).msgLen = s.msgLen := rfl
@[simp] theorem fillStep_msgPad (s : State) : (fillStep s).msgPad = s.msgPad := rfl
@[simp] theorem fillStep_msgBlocks (s : State) : (fillStep s).msgBlocks = s.msgBlocks := rfl
@[simp] theorem fillStep_utabLen (s : State) : (fillStep s).utabLen = s.utabLen := rfl
@[simp] theorem fillStep_utab (s : State) : (fillStep s).utab = s.utab := rfl
@[simp] theorem fillStep_agenda (s : State) : (fillStep s).agenda = s.agenda := rfl
@[simp] theorem fillStep_readData (s : State) : (fillStep s).readData = s.readData := rfl
@[simp] theorem fillStep_freeCount (s : State) : (fillStep s).freeCount = s.freeCount := rfl

/-! ### padStep -/

@[simp] theorem padStep_params (s : State) : (padStep s).params = s.params := rfl
@[simp] theorem padStep_ctrl (s : State) : (padStep s).ctrl = s.ctrl := rfl
@[simp] theorem padStep_keyValid (s : State) : (padStep s).keyValid = s.keyValid := rfl
@[simp] theorem padStep_done (s : State) : (padStep s).done = s.done := rfl
@[simp] theorem padStep_error (s : State) : (padStep s).error = s.error := rfl
@[simp] theorem padStep_pending (s : State) : (padStep s).pending = s.pending := rfl
@[simp] theorem padStep_key (s : State) : (padStep s).key = s.key := rfl
@[simp] theorem padStep_keyLen (s : State) : (padStep s).keyLen = s.keyLen := rfl
@[simp] theorem padStep_rkSel (s : State) : (padStep s).rkSel = s.rkSel := rfl
@[simp] theorem padStep_rkf (s : State) : (padStep s).rkf = s.rkf := rfl
@[simp] theorem padStep_halfL (s : State) : (padStep s).halfL = s.halfL := rfl
@[simp] theorem padStep_halfR (s : State) : (padStep s).halfR = s.halfR := rfl
@[simp] theorem padStep_bv (s : State) : (padStep s).bv = s.bv := rfl
@[simp] theorem padStep_bvLen (s : State) : (padStep s).bvLen = s.bvLen := rfl
@[simp] theorem padStep_res (s : State) : (padStep s).res = s.res := rfl
@[simp] theorem padStep_resLen (s : State) : (padStep s).resLen = s.resLen := rfl
@[simp] theorem padStep_inFifo (s : State) : (padStep s).inFifo = s.inFifo := rfl
@[simp] theorem padStep_outFifo (s : State) : (padStep s).outFifo = s.outFifo := rfl
@[simp] theorem padStep_msgLen (s : State) : (padStep s).msgLen = s.msgLen := rfl
@[simp] theorem padStep_msgPad (s : State) : (padStep s).msgPad = s.msgPad := rfl
@[simp] theorem padStep_msgBlocks (s : State) : (padStep s).msgBlocks = s.msgBlocks := rfl
@[simp] theorem padStep_utabLen (s : State) : (padStep s).utabLen = s.utabLen := rfl
@[simp] theorem padStep_utab (s : State) : (padStep s).utab = s.utab := rfl
@[simp] theorem padStep_agenda (s : State) : (padStep s).agenda = s.agenda := rfl
@[simp] theorem padStep_readData (s : State) : (padStep s).readData = s.readData := rfl
@[simp] theorem padStep_freeCount (s : State) : (padStep s).freeCount = s.freeCount := rfl

/-! ### finishStep -/

@[simp] theorem finishStep_params (s : State) : (finishStep s).params = s.params := rfl
@[simp] theorem finishStep_ctrl (s : State) : (finishStep s).ctrl = s.ctrl := rfl
@[simp] theorem finishStep_keyValid (s : State) : (finishStep s).keyValid = s.keyValid := rfl
@[simp] theorem finishStep_done (s : State) : (finishStep s).done = true := rfl
@[simp] theorem finishStep_error (s : State) : (finishStep s).error = s.error := rfl
@[simp] theorem finishStep_pending (s : State) : (finishStep s).pending = s.pending := rfl
@[simp] theorem finishStep_key (s : State) : (finishStep s).key = s.key := rfl
@[simp] theorem finishStep_keyLen (s : State) : (finishStep s).keyLen = s.keyLen := rfl
@[simp] theorem finishStep_rkSel (s : State) : (finishStep s).rkSel = s.rkSel := rfl
@[simp] theorem finishStep_rkf (s : State) : (finishStep s).rkf = s.rkf := rfl
@[simp] theorem finishStep_halfL (s : State) : (finishStep s).halfL = s.halfL := rfl
@[simp] theorem finishStep_halfR (s : State) : (finishStep s).halfR = s.halfR := rfl
@[simp] theorem finishStep_bv (s : State) : (finishStep s).bv = s.bv := rfl
@[simp] theorem finishStep_bvLen (s : State) : (finishStep s).bvLen = s.bvLen := rfl
@[simp] theorem finishStep_res (s : State) : (finishStep s).res = s.res := rfl
@[simp] theorem finishStep_resLen (s : State) : (finishStep s).resLen = s.resLen := rfl
@[simp] theorem finishStep_inFifo (s : State) : (finishStep s).inFifo = s.inFifo := rfl
@[simp] theorem finishStep_outFifo (s : State) : (finishStep s).outFifo = s.outFifo := rfl
@[simp] theorem finishStep_msgLen (s : State) : (finishStep s).msgLen = s.msgLen := rfl
@[simp] theorem finishStep_msgPad (s : State) : (finishStep s).msgPad = s.msgPad := rfl
@[simp] theorem finishStep_msgBlocks (s : State) : (finishStep s).msgBlocks = s.msgBlocks := rfl
@[simp] theorem finishStep_utabLen (s : State) : (finishStep s).utabLen = s.utabLen := rfl
@[simp] theorem finishStep_utab (s : State) : (finishStep s).utab = s.utab := rfl
@[simp] theorem finishStep_stream (s : State) :
    (finishStep s).stream = { s.stream with active := false } := rfl
@[simp] theorem finishStep_agenda (s : State) : (finishStep s).agenda = s.agenda := rfl
@[simp] theorem finishStep_readData (s : State) : (finishStep s).readData = s.readData := rfl
@[simp] theorem finishStep_freeCount (s : State) : (finishStep s).freeCount = s.freeCount := rfl

/-! ### resetBlock -/

@[simp] theorem resetBlock_params (s : State) : (resetBlock s).params = s.params := rfl
@[simp] theorem resetBlock_ctrl (s : State) :
    (resetBlock s).ctrl = (State.resetWith s.params).ctrl := rfl
@[simp] theorem resetBlock_keyValid (s : State) :
    (resetBlock s).keyValid = (State.resetWith s.params).keyValid := rfl
@[simp] theorem resetBlock_done (s : State) :
    (resetBlock s).done = (State.resetWith s.params).done := rfl
@[simp] theorem resetBlock_error (s : State) :
    (resetBlock s).error = (State.resetWith s.params).error := rfl
@[simp] theorem resetBlock_pending (s : State) :
    (resetBlock s).pending = (State.resetWith s.params).pending := rfl
@[simp] theorem resetBlock_key (s : State) :
    (resetBlock s).key = (State.resetWith s.params).key := rfl
@[simp] theorem resetBlock_keyLen (s : State) :
    (resetBlock s).keyLen = (State.resetWith s.params).keyLen := rfl
@[simp] theorem resetBlock_rkSel (s : State) :
    (resetBlock s).rkSel = (State.resetWith s.params).rkSel := rfl
@[simp] theorem resetBlock_rkf (s : State) :
    (resetBlock s).rkf = (State.resetWith s.params).rkf := rfl
@[simp] theorem resetBlock_halfL (s : State) :
    (resetBlock s).halfL = (State.resetWith s.params).halfL := rfl
@[simp] theorem resetBlock_halfR (s : State) :
    (resetBlock s).halfR = (State.resetWith s.params).halfR := rfl
@[simp] theorem resetBlock_bv (s : State) : (resetBlock s).bv = (State.resetWith s.params).bv := rfl
@[simp] theorem resetBlock_bvLen (s : State) :
    (resetBlock s).bvLen = (State.resetWith s.params).bvLen := rfl
@[simp] theorem resetBlock_res (s : State) :
    (resetBlock s).res = (State.resetWith s.params).res := rfl
@[simp] theorem resetBlock_resLen (s : State) :
    (resetBlock s).resLen = (State.resetWith s.params).resLen := rfl
@[simp] theorem resetBlock_inFifo (s : State) :
    (resetBlock s).inFifo = (State.resetWith s.params).inFifo := rfl
@[simp] theorem resetBlock_outFifo (s : State) :
    (resetBlock s).outFifo = (State.resetWith s.params).outFifo := rfl
@[simp] theorem resetBlock_msgLen (s : State) :
    (resetBlock s).msgLen = (State.resetWith s.params).msgLen := rfl
@[simp] theorem resetBlock_msgPad (s : State) :
    (resetBlock s).msgPad = (State.resetWith s.params).msgPad := rfl
@[simp] theorem resetBlock_msgBlocks (s : State) :
    (resetBlock s).msgBlocks = (State.resetWith s.params).msgBlocks := rfl
@[simp] theorem resetBlock_utabLen (s : State) :
    (resetBlock s).utabLen = (State.resetWith s.params).utabLen := rfl
@[simp] theorem resetBlock_utab (s : State) :
    (resetBlock s).utab = (State.resetWith s.params).utab := rfl
@[simp] theorem resetBlock_stream (s : State) :
    (resetBlock s).stream = (State.resetWith s.params).stream := rfl
@[simp] theorem resetBlock_agenda (s : State) : (resetBlock s).agenda = s.agenda := rfl
@[simp] theorem resetBlock_readData (s : State) : (resetBlock s).readData = s.readData := rfl
@[simp] theorem resetBlock_freeCount (s : State) : (resetBlock s).freeCount = s.freeCount := rfl

end Sys2Proof.Machine
end

