-- ==== Sys2Proof/Laws/Ops.lean ====
section
/-! SUPPORT. What each shared operation does, said once. -/

namespace Sys2Proof.Machine

theorem firstFailure_none {checks : List (Bool × ErrorCode)} :
    firstFailure checks = none ↔ ∀ c ∈ checks, c.1 = false := by
  induction checks with
  | nil => simp [firstFailure]
  | cons c rest ih =>
    obtain ⟨f, code⟩ := c
    cases f <;> simp [firstFailure, ih]

theorem firstFailure_mem {checks : List (Bool × ErrorCode)} {code : ErrorCode}
    (h : firstFailure checks = some code) : (true, code) ∈ checks := by
  induction checks with
  | nil => simp [firstFailure] at h
  | cons c rest ih =>
    obtain ⟨f, code'⟩ := c
    cases f <;> simp_all [firstFailure]

/-- A command's execution step either fails with its first failing check or has its effect
(30_encoding.md R311). -/
theorem runChecked_cases {i : Instr} {checks : List (Bool × ErrorCode)} {effect s t : State}
    (h : runChecked i checks effect s = .next t) :
    (∃ code, firstFailure checks = some code ∧ t = failCommand code (encode i) s) ∨
    ((∀ c ∈ checks, c.1 = false) ∧ t = effect) := by
  unfold runChecked at h
  split at h
  · next code hc => cases h; exact .inl ⟨code, hc, rfl⟩
  · next hc => cases h; exact .inr ⟨firstFailure_none.mp hc, rfl⟩

theorem runChecked_of_fails {i : Instr} {checks : List (Bool × ErrorCode)} {effect s : State}
    {code : ErrorCode} (h : firstFailure checks = some code) :
    runChecked i checks effect s = .next (failCommand code (encode i) s) := by
  simp [runChecked, h]

theorem runChecked_of_passes {i : Instr} {checks : List (Bool × ErrorCode)} {effect s : State}
    (h : ∀ c ∈ checks, c.1 = false) : runChecked i checks effect s = .next effect := by
  simp [runChecked, firstFailure_none.mpr h]

theorem runChecked_next (i : Instr) (checks : List (Bool × ErrorCode)) (effect s : State) :
    ∃ t, runChecked i checks effect s = .next t := by
  unfold runChecked
  split <;> exact ⟨_, rfl⟩

/-- An error is recorded and nothing else changes (60_exceptions.md R810). -/
theorem raiseError_eq (c : ErrorCode) (src : ErrorSource) (info : Word) (s : State) :
    raiseError c src info s = { s with error := (raiseError c src info s).error } := rfl

theorem raiseError_error_of_none {s : State} (h : s.error = none) (c : ErrorCode)
    (src : ErrorSource) (info : Word) :
    (raiseError c src info s).error = some ⟨c, src, info, false⟩ := by simp [raiseError, h]

theorem raiseError_error_of_some {s : State} {e : ErrorRecord} (h : s.error = some e)
    (c : ErrorCode) (src : ErrorSource) (info : Word) :
    (raiseError c src info s).error = some { e with multi := true } := by simp [raiseError, h]

@[simp] theorem busy_complete (s : State) : (complete s).busy = s.stream.active := by
  simp [State.busy]

@[simp] theorem busy_failCommand (c : ErrorCode) (w : Word) (s : State) :
    (failCommand c w s).busy = s.stream.active := by simp [State.busy]

@[simp] theorem busy_raiseError (c : ErrorCode) (src : ErrorSource) (info : Word) (s : State) :
    (raiseError c src info s).busy = s.busy := by simp [State.busy]

@[simp] theorem busy_writeStatus (w : Word) (s : State) : (writeStatus w s).busy = s.busy := by
  simp [State.busy]

@[simp] theorem busy_resetBlock (s : State) : (resetBlock s).busy = false := rfl

@[simp] theorem busy_startMessage (dec : Bool) (s : State) : (startMessage dec s).busy = true := rfl

theorem busy_eq_false {s : State} : s.busy = false ↔ s.pending = none ∧ s.stream.active = false := by
  simp [State.busy]

end Sys2Proof.Machine
end

