-- ==== Sys2Proof/Laws/Exec.lean ====
section
/-! SUPPORT. What executing a command can do: it always answers a next state, which is the failed command or
the command's effect. -/

namespace Sys2Proof.Machine

/-- The state after a command that passes its checks. -/
def success (i : Instr) (s : State) : State :=
  match i with
  | .nop => complete s
  | .srst => resetBlock s
  | .kexp => complete (kexpEffect s)
  | .round i' => complete (roundEffect i' s)
  | .encb => complete (encbEffect s)
  | .decb => complete (decbEffect s)
  | .swap => complete (writeHalves s.halves.swap s)
  | .ffn i' => complete (ffnEffect i' s)
  | .perm t => complete (permEffect t s)
  | .sbox k => complete (sboxEffect k s)
  | .msge => startMessage false s
  | .msgd => startMessage true s
  | .mabt => complete
      { s with
        inFifo := []
        outFifo := []
        stream :=
          { s.stream with active := false, ibuf := [], obuf := [], bytesLeft := 0, padLeft := 0 } }
  | .unpk n => complete (unpkEffect n s)
  | .pack => complete (packEffect s)

/-- The checks a command makes after decoding, in the order of 30_encoding.md R320. -/
def checksOf (i : Instr) (s : State) : List (Bool × ErrorCode) :=
  match i with
  | .nop | .srst | .swap | .mabt => []
  | .kexp =>
    [(!(decide (1 ≤ s.rounds) && decide (s.rounds ≤ 16)), .config),
     (decide (s.keyLen.toNat < rawKeyWidth s.ctrl.variant), .keyLength)]
  | .round i' | .ffn i' => [keyCheck s, roundCheck i' s]
  | .encb | .decb => [keyCheck s]
  | .perm t => [((s.permTable t).isNone, .badArgument), (!s.permShapeOk t, .shape)]
  | .sbox k =>
    [(decide (boxCount s.ctrl.variant ≤ k), .badArgument),
     (decide (s.bvLen.toNat ≠ boxIn s.ctrl.variant), .shape)]
  | .msge | .msgd => [keyCheck s, padCheck s]
  | .unpk n =>
    [(!(decide (1 ≤ n) && decide (n ≤ 8)), .badArgument),
     (decide (s.inFifo.length < n), .fifoUnderflow)]
  | .pack =>
    [(decide (s.bvLen.toNat % 8 ≠ 0), .length),
     (decide (s.params.outDepth - s.outFifo.length < s.bvLen.toNat / 8), .fifoOverflow)]

/-- Executing a command is running its checks and then its effect. -/
theorem exec_eq_runChecked (i : Instr) (s : State) :
    exec i s = runChecked i (checksOf i s) (success i s) s := by
  cases i <;> rfl

/-- Executing a command always answers a next state (60_exceptions.md R850). -/
theorem exec_next (i : Instr) (s : State) : ∃ t, exec i s = .next t := by
  rw [exec_eq_runChecked]
  exact runChecked_next _ _ _ _

/-- Executing a command fails with its first failing check or has its effect. -/
theorem exec_cases {i : Instr} {s t : State} (h : exec i s = .next t) :
    (∃ code, firstFailure (checksOf i s) = some code ∧ t = failCommand code (encode i) s) ∨
    ((∀ c ∈ checksOf i s, c.1 = false) ∧ t = success i s) := by
  rw [exec_eq_runChecked] at h
  exact runChecked_cases h

theorem exec_of_passes {i : Instr} {s : State} (h : ∀ c ∈ checksOf i s, c.1 = false) :
    exec i s = .next (success i s) := by
  rw [exec_eq_runChecked, runChecked_of_passes h]

theorem exec_of_fails {i : Instr} {s : State} {code : ErrorCode}
    (h : firstFailure (checksOf i s) = some code) :
    exec i s = .next (failCommand code (encode i) s) := by
  rw [exec_eq_runChecked, runChecked_of_fails h]

end Sys2Proof.Machine
end

