-- ==== Sys2Proof/Laws/Feistel.lean ====
section
/-! SUPPORT. Lengths, lanes and the inverse of one Feistel round (45_feistel.md R650-R654). -/

namespace Sys2Proof.Machine

@[simp] theorem length_substitute (v : Variant) (k : Nat) (s : Bits) :
    (substitute v k s).length = boxOut v := by simp [substitute]

/-- Output element `j` of a box is bit `SO - 1 - j` of the entry (43_sbox.md R554). -/
theorem getD_substitute (v : Variant) (k : Nat) (s : Bits) {j : Nat} (h : j < boxOut v) :
    (substitute v k s).getD j false =
      (sboxEntry v k (sboxRow v s) (sboxCol v s)).testBit (boxOut v - 1 - j) :=
  getD_msbseq _ _ _ h

@[simp] theorem length_feistel (v : Variant) (rs k : Bits) : (feistel v rs k).length = halfWidth v := by
  cases v <;> simp [feistel, outputTable, halfWidth, tableP, tableTP]

/-- Element `y` of a concatenation of groups of one width lies in group `y / w`, at place `y % w`. -/
theorem getD_flatMap_range (f : Nat → Bits) (n w : Nat) (hf : ∀ k, (f k).length = w) (y : Nat)
    (hy : y < n * w) :
    ((List.range n).flatMap f).getD y false = (f (y / w)).getD (y % w) false := by
  induction n with
  | zero => simp at hy
  | succ n ih =>
    have hl : ((List.range n).flatMap f).length = n * w := by simp [List.length_flatMap, hf]
    rw [List.range_succ, List.flatMap_append]
    by_cases h : y < n * w
    · rw [List.getD_append _ _ _ _ (by rw [hl]; exact h)]; exact ih h
    · rw [List.getD_append_right _ _ _ _ (by rw [hl]; omega), hl]
      have hq : y / w = n := by
        apply Nat.div_eq_of_lt_le
        · omega
        · rw [Nat.succ_mul] at *; omega
      simp only [List.flatMap_singleton, hq]
      congr 1
      rw [← hq, Nat.mod_eq_sub_mul_div, Nat.mul_comm]

/-- A pair of half-blocks of width `h`. -/
def HalvesOk (v : Variant) (p : Bits × Bits) : Prop :=
  p.1.length = halfWidth v ∧ p.2.length = halfWidth v

theorem halvesOk_roundForward {v : Variant} {p : Bits × Bits} (k : Bits) (h : HalvesOk v p) :
    HalvesOk v (roundForward v k p) := by
  simp [HalvesOk, roundForward, h.1, h.2]

theorem halvesOk_runRounds {v : Variant} (keys : List Bits) {p : Bits × Bits} (h : HalvesOk v p) :
    HalvesOk v (runRounds v keys p) := by
  induction keys generalizing p with
  | nil => exact h
  | cons k ks ih => exact ih (halvesOk_roundForward k h)

theorem runRounds_append (v : Variant) (a b : List Bits) (p : Bits × Bits) :
    runRounds v (a ++ b) p = runRounds v b (runRounds v a p) := by simp [runRounds]

/-- One round undoes itself between swaps, whatever the key (45_feistel.md R680). -/
theorem roundForward_swap {v : Variant} {p : Bits × Bits} (k : Bits) (h : HalvesOk v p) :
    roundForward v k (roundForward v k p).swap = p.swap := by
  simp only [roundForward, Prod.swap]
  rw [xorBits_cancel _ _ (by rw [length_feistel]; exact h.1)]

theorem halvesOk_halves (s : State) : HalvesOk s.ctrl.variant s.halves := by
  simp [HalvesOk, State.halves, State.leftSeq, State.rightSeq]

theorem halfWidth_le (v : Variant) : halfWidth v ≤ 32 := by cases v <;> decide

/-- Writing a half-block's own sequence keeps its low `h` bits (10_state.md R138). -/
theorem regOf_seqOf_half (v : Variant) (w : Word) :
    regOf 32 (seqOf (halfWidth v) w) = lowHalf v w := by
  unfold regOf lowHalf
  rw [val_seqOf]

theorem seqOf_lowHalf (v : Variant) (w : Word) :
    seqOf (halfWidth v) (lowHalf v w) = seqOf (halfWidth v) w := by
  rw [← regOf_seqOf_half]
  exact seqOf_regOf _ (by simp) (halfWidth_le v)

/-- The half-blocks that were written are the half-blocks read back (10_state.md R138). -/
theorem halves_writeHalves {s : State} {p : Bits × Bits} (h : HalvesOk s.ctrl.variant p) :
    (writeHalves p s).halves = p := by
  simp only [State.halves, State.leftSeq, State.rightSeq, writeHalves]
  rw [seqOf_regOf _ h.1 (halfWidth_le _), seqOf_regOf _ h.2 (halfWidth_le _)]

end Sys2Proof.Machine
end

