-- ==== Sys2Proof/Laws/PerInstr.lean ====
section
/-! SUPPORT. Facts made for every command, one lemma per constructor of `Instr`. -/

namespace Sys2Proof.Laws.EncodedFields

/-- The fields of a well-formed command's word: its opcode of 30_encoding.md R303, its argument, and
reserved bits that are 0 (R300-R302). -/
def Statement (i : Instr) : Prop :=
  WellFormed i →
    opcField (encode i) = opcodeOf i ∧ argField (encode i) = argOf i ∧ rsvField (encode i) = 0

theorem of_arg_lt {i : Instr} (h : WellFormed i → argOf i < 256) : Statement i := by
  intro hw
  refine ⟨opcField_encode i, ?_, rsvField_encode i⟩
  rw [argField_encode, Nat.mod_eq_of_lt (h hw)]

theorem nop : Statement .nop := of_arg_lt fun _ => by decide
theorem srst : Statement .srst := of_arg_lt fun _ => by decide
theorem kexp : Statement .kexp := of_arg_lt fun _ => by decide
theorem round (i : Nat) : Statement (.round i) := of_arg_lt fun h => of_decide_eq_true h
theorem encb : Statement .encb := of_arg_lt fun _ => by decide
theorem decb : Statement .decb := of_arg_lt fun _ => by decide
theorem swap : Statement .swap := of_arg_lt fun _ => by decide
theorem ffn (i : Nat) : Statement (.ffn i) := of_arg_lt fun h => of_decide_eq_true h
theorem perm (t : Nat) : Statement (.perm t) := of_arg_lt fun h => of_decide_eq_true h
theorem sbox (k : Nat) : Statement (.sbox k) := of_arg_lt fun h => of_decide_eq_true h
theorem msge : Statement .msge := of_arg_lt fun _ => by decide
theorem msgd : Statement .msgd := of_arg_lt fun _ => by decide
theorem mabt : Statement .mabt := of_arg_lt fun _ => by decide
theorem unpk (n : Nat) : Statement (.unpk n) := of_arg_lt fun h => of_decide_eq_true h
theorem pack : Statement .pack := of_arg_lt fun _ => by decide

end Sys2Proof.Laws.EncodedFields
end

