-- ==== Sys2Proof/Laws/Step.lean ====
section
/-! SUPPORT. What one step can do, said once; and the step on a state that faces a given turn. -/

namespace Sys2Proof.Machine

theorem step_facing (s : State) (t : Turn) : step (s.facing t) = takeTurn t s := rfl

theorem step_facing_engine (s : State) : step (s.facing .engine) = engineStep s := rfl

theorem step_facing_reset (s : State) : step (s.facing .reset) = .next (resetBlock s) := rfl

theorem step_of_no_agenda {s : State} (h : s.agenda = []) : step s = engineStep s := by
  simp [step, h]

theorem inContract_word {off : Nat} (h4 : off % 4 = 0) (h : off < 0x200) :
    inContract 4 off = true := by simp [inContract, h4, h]

theorem step_facingRead {s : State} {off : Nat} (h4 : off % 4 = 0) (h : off < 0x200) :
    step (s.facingRead off) = .next (readReg (regAt off) s) := by
  rw [State.facingRead, step_facing]
  simp [takeTurn, hostStep, inContract_word h4 h]

theorem step_facingWrite {s : State} {off : Nat} {v : Word} (h4 : off % 4 = 0) (h : off < 0x200)
    (hc : off ≠ 0x010) : step (s.facingWrite off v) = .next (writeReg off v s) := by
  rw [State.facingWrite, step_facing]
  simp [takeTurn, hostStep, inContract_word h4 h, hc]

theorem step_facingCmd (s : State) (w : Word) : step (s.facingWrite 0x010 w) = submit w s := by
  rw [State.facingWrite, step_facing]
  simp [takeTurn, hostStep, inContract]

/-- What acts at once is `SRST`, or `MABT` during a message (30_encoding.md R310). -/
theorem actsAtOnce_cases {w : Word} {s : State} {i : Instr} (h : actsAtOnce w s = some i) :
    decode w = .command i ∧ (i = .srst ∨ (i = .mabt ∧ s.stream.active = true)) := by
  unfold actsAtOnce at h
  split at h
  · next hd => cases h; exact ⟨hd, .inl rfl⟩
  · next hd =>
    split at h
    · next ha => cases h; exact ⟨hd, .inr ⟨rfl, ha⟩⟩
    · cases h
  · cases h

/-- Everything the engine's turn can do (30_encoding.md R311, 41_chunker_stream.md R460). -/
inductive EngineCase (s t : State) : Prop where
  | command (w : Word) (i : Instr) (hp : s.pending = some w) (hd : decode w = .command i)
      (he : exec i s = .next t)
  | illegal (w : Word) (r : DecodeReject) (hp : s.pending = some w) (hd : decode w = .illegal r)
      (ht : t = failCommand .illegalCommand w s)
  | stream (hp : s.pending = none) (ha : s.stream.active = true) (ht : t = streamStep s)
  | idle (hp : s.pending = none) (ha : s.stream.active = false) (ht : t = s)

theorem engineStep_cases {s t : State} (h : engineStep s = .next t) : EngineCase s t := by
  unfold engineStep at h
  split at h
  · next w hp =>
    unfold runWord at h
    split at h
    · next i hd => exact .command w i hp hd h
    · next r hd => cases h; exact .illegal w r hp hd rfl
  · next hp =>
    split at h
    · next ha => cases h; exact .stream hp ha rfl
    · next ha => cases h; exact .idle hp (by simpa using ha) rfl

/-- Everything a host access can do (20_memory.md R200, 30_encoding.md R310). -/
inductive HostCase (a : Access) (s t : State) : Prop where
  | read (off : Nat) (ha : a = .read 4 off) (ht : t = readReg (regAt off) s)
  | write (off : Nat) (v : Word) (ha : a = .write 4 off v) (hc : off ≠ 0x010)
      (ht : t = writeReg off v s)
  | srst (w : Word) (ha : a = .write 4 0x010 w) (ht : t = resetBlock s)
  | mabt (w : Word) (ha : a = .write 4 0x010 w) (hm : s.stream.active = true)
      (ht : t = success .mabt s)
  | rejected (w : Word) (ha : a = .write 4 0x010 w) (hb : s.busy = true)
      (ht : t = raiseError .sequence .command w s)
  | accepted (w : Word) (ha : a = .write 4 0x010 w) (hb : s.busy = false)
      (ht : t = { s with pending := some w })

theorem submit_cases {w : Word} {s t : State} (h : submit w s = .next t) :
    HostCase (.write 4 0x010 w) s t := by
  unfold submit at h
  split at h
  · next i hi =>
    obtain ⟨_, rfl | ⟨rfl, ha⟩⟩ := actsAtOnce_cases hi
    · cases h; exact .srst w rfl rfl
    · cases h; exact .mabt w rfl ha rfl
  · split at h
    · next hb => cases h; exact .rejected w rfl hb rfl
    · next hb => cases h; exact .accepted w rfl (by simpa using hb) rfl

theorem hostStep_cases {a : Access} {s t : State} (h : hostStep a s = .next t) : HostCase a s t := by
  unfold hostStep at h
  split at h
  · next width off =>
    split at h
    · next hc =>
      have : width = 4 := by simp [inContract] at hc; omega
      subst this; cases h; exact .read off rfl rfl
    · cases h
  · next width off v =>
    split at h
    · next hc =>
      have : width = 4 := by simp [inContract] at hc; omega
      subst this
      split at h
      · next ho => subst ho; exact submit_cases h
      · next ho => cases h; exact .write off v rfl ho rfl
    · cases h

/-- Everything a step can do: the reset event, a host access or the engine's turn, on the state whose
agenda has lost its first turn (20_memory.md R230). -/
inductive StepCase (s t : State) : Prop where
  | reset (rest : List Turn) (hs : s.agenda = .reset :: rest)
      (ht : t = resetBlock { s with agenda := s.agenda.tail })
  | host (a : Access) (rest : List Turn) (hs : s.agenda = .host a :: rest)
      (hc : HostCase a { s with agenda := s.agenda.tail } t)
  | engine (hc : EngineCase { s with agenda := s.agenda.tail } t)

theorem step_cases {s t : State} (h : step s = .next t) : StepCase s t := by
  unfold step at h
  split at h
  · next ha =>
    refine .engine ?_
    have : ({ s with agenda := s.agenda.tail } : State) = s := by
      obtain ⟨⟩ := s; simp_all
    rw [this]; exact engineStep_cases h
  · next turn rest ha =>
    have hr : rest = s.agenda.tail := by simp [ha]
    rw [hr] at h
    cases turn with
    | engine => exact .engine (engineStep_cases h)
    | host a => exact .host a rest ha (hostStep_cases h)
    | reset => cases h; exact .reset rest ha rfl

end Sys2Proof.Machine
end

