-- ==== Sys2Proof/Laws/Stream.lean ====
section
/-! SUPPORT. What each micro-step needs, and the sizes of the stream's parts (41_chunker_stream.md). -/

namespace Sys2Proof.Machine

theorem blockWidth_pos (v : Variant) : 0 < blockWidth v := by cases v <;> decide

/-- The condition of the enabled micro-step (R460). -/
def MicroStep.Enabled (m : MicroStep) (s : State) : Prop :=
  match m with
  | .drain => 8 ≤ s.stream.obuf.length ∧ s.outFifo.length < s.params.outDepth
  | .block => blockWidth s.ctrl.variant ≤ s.stream.ibuf.length ∧ s.stream.obuf.length < 8
  | .fill => s.stream.ibuf.length < blockWidth s.ctrl.variant ∧ 0 < s.stream.bytesLeft ∧
      0 < s.inFifo.length
  | .pad => s.stream.ibuf.length < blockWidth s.ctrl.variant ∧ s.stream.bytesLeft = 0 ∧
      0 < s.stream.padLeft
  | .finish => s.stream.ibuf.length = 0 ∧ s.stream.bytesLeft = 0 ∧ s.stream.padLeft = 0 ∧
      s.stream.obuf.length = 0

theorem enabled_of_nextMicroStep {s : State} {m : MicroStep} (h : s.nextMicroStep = some m) :
    m.Enabled s := by
  unfold State.nextMicroStep at h
  simp only at h
  split at h
  · next hc => cases h; exact hc
  split at h
  · next hc => cases h; exact hc
  split at h
  · next hc => cases h; exact hc
  split at h
  · next hc => cases h; exact hc
  split at h
  · next hc => cases h; exact hc
  cases h

/-- When nothing is enabled, none of the conditions holds (R467). -/
theorem not_enabled_of_hold {s : State} (h : s.nextMicroStep = none) (m : MicroStep) :
    ¬m.Enabled s := by
  unfold State.nextMicroStep at h
  simp only at h
  repeat' split at h
  all_goals first
    | (cases h; done)
    | (cases m <;> assumption)

theorem engineStep_stream {s : State} (hp : s.pending = none) (ha : s.stream.active = true) :
    engineStep s = .next (streamStep s) := by simp [engineStep, hp, ha]

/-- The filler is never longer than 63 units (10_state.md R145). -/
theorem padAmount_le (v : Variant) (m : PadMode) (n : Nat) : padAmount v m n ≤ 63 := by
  have hb : 0 < blockWidth v ∧ blockWidth v ≤ 64 := by cases v <;> decide
  unfold padAmount
  split
  · cases h : (List.range (blockWidth v)).find? (fun k => (8 * (n + k)) % blockWidth v == 0) with
    | none => simp
    | some k =>
      have := List.mem_of_find?_eq_some h
      simp at this ⊢
      omega
  · have := Nat.mod_lt (blockWidth v - (8 * n) % blockWidth v) hb.1
    omega

theorem length_fillerBits (s : State) : s.fillerBits.length = s.fillerLeft := by
  unfold State.fillerBits State.fillerLeft
  cases s.ctrl.padMode <;> simp [length_toBits]

theorem length_inputBits {s : State} (h : s.stream.bytesLeft ≤ s.inFifo.length) :
    s.inputBits.length = s.stream.ibuf.length + 8 * s.stream.bytesLeft + s.fillerLeft := by
  unfold State.inputBits
  simp [length_toBits, length_fillerBits]
  omega

/-- The count of blocks depends on the stream, `CTRL` and the message registers only. -/
theorem blockCount_of_eq {s t : State} (h : BlockCount s) (hs : t.stream = s.stream)
    (hc : t.ctrl = s.ctrl) (hb : t.msgBlocks = s.msgBlocks) (hl : t.msgLen = s.msgLen)
    (hp : t.msgPad = s.msgPad) : BlockCount t := by
  intro ha
  have := h (by rw [← hs]; exact ha)
  simpa [State.messageBits, State.fillerLeft, hs, hc, hb, hl, hp] using this

theorem blockCount_of_idle {s : State} (h : s.stream.active = false) : BlockCount s := by
  intro ha; rw [h] at ha; cases ha

/-- A message has fewer than `12 * 2^32` bits, so `MSG_BLOCKS` does not wrap while it runs (10_state.md
R146). -/
theorem messageBits_le (s : State) : s.messageBits ≤ 8 * (2 ^ 32 - 1) + 8 * 255 := by
  have := s.msgLen.isLt
  have := s.msgPad.isLt
  unfold State.messageBits
  cases s.ctrl.padMode <;> simp <;> omega

/-- The first block of a sequence is transformed on its own (R462, R476). -/
theorem transformBits_append {v : Variant} {blk : Bits} (h : blk.length = blockWidth v) (dec : Bool)
    (keys : List Bits) (x : Bits) :
    transformBits v dec keys (blk ++ x) =
      blockTransform v dec keys blk ++ transformBits v dec keys x := by
  unfold transformBits blocksOf
  rw [List.length_append, h, Nat.add_comm, Nat.add_div_right _ (blockWidth_pos v),
    List.range_succ_eq_map]
  simp only [List.map_cons, List.flatMap_cons, Nat.mul_zero, List.drop_zero, List.map_map]
  congr 1
  · rw [← h]; simp
  · congr 1
    apply List.map_congr_left
    intro k _
    simp only [Function.comp]
    congr 1
    rw [Nat.mul_succ, Nat.add_comm, ← h, List.drop_append]
    simp

/-- One more step of a run. -/
theorem run_succ_of_next {M : Host.Core} {n : Nat} {s t : M.State} (h : M.step s = .next t) :
    M.run (n + 1) s = M.run n t := by simp [Host.Core.run, h]

end Sys2Proof.Machine
end

