-- ==== Sys2Proof/Laws/Window.lean ====
section
/-! SUPPORT. What a host access does, said once per kind of access (10_state.md R160, R161). -/

namespace Sys2Proof.Machine

/-- A read that is exact (10_state.md R161). -/
theorem step_read_exact {s : State} {off : Nat} (h4 : off % 4 = 0) (h : off < 0x200)
    (hb : (s.busy && (regAt off).freeWhileBusy) = false) :
    step (s.facingRead off) =
      .next { readEffect (regAt off) s with readData := regValue (regAt off) s } := by
  rw [step_facingRead h4 h, readReg, hb]
  rfl

/-- A read of any register but `FIFO_OUT`, exact, changes nothing (10_state.md R161, 20_memory.md R206). -/
theorem readsAs_exact {s : State} {off : Nat} (h4 : off % 4 = 0) (h : off < 0x200)
    (hb : (s.busy && (regAt off).freeWhileBusy) = false) (hf : regAt off ≠ .fifoOut) :
    ReadsAs s off (regValue (regAt off) s) := by
  have he : readEffect (regAt off) s = s := by
    cases hr : regAt off <;> first | rfl | exact absurd hr hf
  rw [ReadsAs, step_read_exact h4 h hb, he]

/-- The round key that `RK_SEL` selects (10_state.md R137). -/
theorem selectedKey_of_lt {s : State} {k : Nat} (h : k < 16) (hk : s.rkSel.toNat = k + 1) :
    s.selectedKey = s.rkf[k] := by
  simp [State.selectedKey, State.roundKeyWord, hk, h]

/-- `RK_SEL` selects no round key (10_state.md R137). -/
theorem selectedKey_of_none {s : State} (h : s.rkSel.toNat = 0 ∨ 16 < s.rkSel.toNat) :
    s.selectedKey = 0 := by
  unfold State.selectedKey State.roundKeyWord
  split
  · rfl
  · rw [Vector.getElem?_eq_none (by omega)]; rfl

/-- A read that is a free draw (10_state.md R161). -/
theorem step_read_free {s : State} {off : Nat} (h4 : off % 4 = 0) (h : off < 0x200)
    (hb : s.busy = true) (hf : (regAt off).freeWhileBusy = true) :
    step (s.facingRead off) =
      .next { s with readData := Config.freeRead s.freeCount, freeCount := s.freeCount + 1 } := by
  rw [step_facingRead h4 h, readReg, hb, hf]
  rfl

/-- A write that the busy lock lets through (10_state.md R160). -/
theorem step_write_accepted {s : State} {off : Nat} {v : Word} (h4 : off % 4 = 0) (h : off < 0x200)
    (hc : off ≠ 0x010) (hb : (s.busy && (regAt off).locked) = false) :
    step (s.facingWrite off v) = .next (setReg (regAt off) v s) := by
  rw [step_facingWrite h4 h hc, writeReg, hb]
  rfl

/-- A write that the busy lock rejects (10_state.md R160). -/
theorem step_write_locked {s : State} {off : Nat} {v : Word} (h4 : off % 4 = 0) (h : off < 0x200)
    (hc : off ≠ 0x010) (hb : s.busy = true) (hl : (regAt off).locked = true) :
    step (s.facingWrite off v) = .next (raiseError .sequence .access (offsetInfo off) s) := by
  rw [step_facingWrite h4 h hc, writeReg, hb, hl]
  rfl

/-- Entry `i` of the user table (10_state.md R148). -/
theorem regAt_utab {i : Nat} (h : i < 64) : regAt (0x100 + 4 * i) = .utab i :=
  (by decide : ∀ i < 64, regAt (0x100 + 4 * i) = .utab i) i h

/-- The reserved offsets 0x06C to 0x0FC (10_state.md R100). -/
theorem regAt_reserved {i : Nat} (h : 27 ≤ i) (h' : i < 64) : regAt (4 * i) = .reserved :=
  (by decide : ∀ i < 64, 27 ≤ i → regAt (4 * i) = .reserved) i h' h

theorem off_of_status {off : Nat} (h : regAt off = .status) : off = 0x00C := by
  unfold regAt at h
  split at h <;> first | rfl | cases h | (split at h <;> cases h)

theorem clampLen_le (w : Word) : (clampLen w).toNat ≤ 64 := by
  unfold clampLen
  simp only
  split
  · decide
  · omega

/-- A length below 128 is stored as itself up to 64 (10_state.md R134, R139, R147). -/
theorem toNat_clampLen {w : Word} (h : w.toNat < 128) : (clampLen w).toNat = min w.toNat 64 := by
  have : (w.extractLsb' 0 7).toNat = w.toNat := by simp; omega
  unfold clampLen
  simp only
  split
  · next hc => rw [this] at hc; rw [Nat.min_eq_right (by omega)]; rfl
  · next hc => rw [this] at hc ⊢; omega

end Sys2Proof.Machine
end

