-- ==== Sys2Proof/Tests/Slice0.lean ====
section
/-! SUPPORT. Tests on small states, with values from spec/95_test_vectors.md and from the encoding lines of
spec/; and for each obligation with hypotheses a state and operands that meet them. -/

namespace Sys2Proof.Tests

open Sys2Proof Sys2Proof.Machine

/-- The state a step answers. -/
def stateAfter (r : StepResult) : State :=
  match r with
  | .next t => t
  | .fault _ => State.reset
  | .refused _ => State.reset

/-- The state after one command. -/
def after (i : Instr) (s : State) : State := stateAfter (exec i s)

/-- The Toy variant with four rounds and the textbook's key (95_test_vectors.md section 2.2). -/
def toy : State :=
  { State.reset with
    ctrl := { Ctrl.reset with variant := .toy, nrounds := 4 }
    key := 0x132, keyLen := 9, halfL := 0x0E, halfR := 0x19 }

/-- The same with its key schedule. -/
def keyedToy : State := after .kexp toy

/-- The Full variant with two rounds and the FIPS key (95_test_vectors.md section 2.1). -/
def full : State :=
  { State.reset with
    ctrl := { Ctrl.reset with nrounds := 2 }
    key := 0x8FFB3DD99EEA2CC8, keyLen := 64, halfL := 0xFF330033, halfR := 0x550F550F }

/-- A bit-vector operand. -/
def operand (s : State) (v : BitVec 64) (n : BitVec 7) : State := { s with bv := v, bvLen := n }

/-- A Toy message in progress. -/
def streaming (ibuf obuf : Bits) (bytesLeft padLeft : Nat) : State :=
  { keyedToy with
    done := false
    stream := { active := true, modeDec := false, ibuf := ibuf, obuf := obuf, bytesLeft := bytesLeft, padLeft := padLeft } }

/-! ### Well-formedness: an argument of 256 does not fit `ARG` (30_encoding.md R301) -/

theorem test_round_argument_fits : ¬WellFormed (.round 256) ∧ WellFormed (.round 255) := by decide
theorem test_ffn_argument_fits : ¬WellFormed (.ffn 256) ∧ WellFormed (.ffn 255) := by decide
theorem test_perm_argument_fits : ¬WellFormed (.perm 256) ∧ WellFormed (.perm 255) := by decide
theorem test_sbox_argument_fits : ¬WellFormed (.sbox 256) ∧ WellFormed (.sbox 255) := by decide
theorem test_unpk_argument_fits : ¬WellFormed (.unpk 256) ∧ WellFormed (.unpk 255) := by decide

/-! ### Decoding: words written out from each command's encoding line -/

theorem test_decode_nop : decode 0x00000000 = .command .nop := by decide
theorem test_decode_srst : decode 0x00000001 = .command .srst := by decide
theorem test_decode_kexp : decode 0x00000010 = .command .kexp := by decide
theorem test_decode_round : decode 0x00001020 = .command (.round 16) := by decide
theorem test_decode_encb : decode 0x00000021 = .command .encb := by decide
theorem test_decode_decb : decode 0x00000022 = .command .decb := by decide
theorem test_decode_swap : decode 0x00000023 = .command .swap := by decide
theorem test_decode_ffn : decode 0x00000424 = .command (.ffn 4) := by decide
theorem test_decode_perm : decode 0x00000F30 = .command (.perm 15) := by decide
theorem test_decode_sbox : decode 0x00000731 = .command (.sbox 7) := by decide
theorem test_decode_msge : decode 0x00000040 = .command .msge := by decide
theorem test_decode_msgd : decode 0x00000041 = .command .msgd := by decide
theorem test_decode_mabt : decode 0x00000042 = .command .mabt := by decide
theorem test_decode_unpk : decode 0x00000850 = .command (.unpk 8) := by decide
theorem test_decode_pack : decode 0x00000051 = .command .pack := by decide
theorem test_decode_illegal : decode 0x00000002 = .illegal .reservedOpcode ∧
    decode 0x00010000 = .illegal .reservedBits ∧ decode 0x00000100 = .illegal .unusedArgument ∧
    decode 0x00000121 = .illegal .unusedArgument := by decide

/-- A word of the table runs as the first command after reset. -/
theorem test_first_command : (stateAfter (step (State.reset.withFetchWord 32 0x23))).done = true ∧
    (stateAfter (step (State.reset.withFetchWord 32 0x23))).pending = none := by decide

/-! ### Commands (95_test_vectors.md sections 2 and 3) -/

theorem test_nop : (after .nop State.reset).statusWord = 0x00000100 := by decide
theorem test_srst : (after .srst (streaming [] [] 16 0)).statusWord = 0 ∧
    ctrlWord (after .srst (streaming [] [] 16 0)).ctrl = 0x00001000 := by decide
theorem test_kexp_toy : keyedToy.rkf.toList.take 5 = [0x32, 0x99, 0x4C, 0xA6, 0] ∧
    keyedToy.statusWord = 0x00000102 := by decide
theorem test_kexp_full :
    (after .kexp full).rkf.toList.take 3 = [0x4E0E3FF740D8, 0xA793DB9B759E, 0] := by decide +kernel
theorem test_round_toy : (after (.round 4) keyedToy).halfL = 0x19 ∧
    (after (.round 4) keyedToy).halfR = 0x06 := by decide +kernel
theorem test_round_zero :
    (after (.round 0) keyedToy).error = some ⟨.badRoundIndex, .command, 0x20, false⟩ := by decide
theorem test_ffn_toy : (after (.ffn 4) keyedToy).res = 0x08 ∧
    (after (.ffn 4) keyedToy).resLen = 6 := by decide +kernel
theorem test_ffn_full : (after (.ffn 1) (after .kexp full)).res = 0xDD9552C4 := by decide +kernel
theorem test_encb_toy : (after .encb keyedToy).halfL = 0x3C ∧ (after .encb keyedToy).halfR = 0x21 := by
  decide +kernel
theorem test_encb_full : (after .encb (after .kexp full)).halfL = 0x90EE8033 ∧
    (after .encb (after .kexp full)).halfR = 0x22A652F7 := by decide +kernel
theorem test_decb_toy :
    (after .decb { keyedToy with halfL := 0x3C, halfR := 0x21 }).halfL = 0x0E := by decide +kernel
theorem test_decb_needs_key :
    (after .decb toy).error = some ⟨.keyNotReady, .command, 0x22, false⟩ := by decide
theorem test_swap_toy : (after .swap { toy with halfL := 0xFFFFFFC1, halfR := 0x5 }).halfL = 0x05 ∧
    (after .swap { toy with halfL := 0xFFFFFFC1, halfR := 0x5 }).halfR = 0x01 := by decide
theorem test_perm_expansion : (after (.perm 2) (operand State.reset 0x23456789 32)).res = 0x0000906A0AB0FC52 ∧
    (after (.perm 2) (operand State.reset 0x23456789 32)).resLen = 48 := by decide +kernel
theorem test_perm_shape : (after (.perm 2) (operand State.reset 0 31)).statusWord = 0x00001300 := by
  decide
theorem test_sbox_full : (after (.sbox 0) (operand State.reset 0x36 6)).res = 0xA ∧
    (after (.sbox 7) (operand State.reset 0x20 6)).res = 0x8 := by decide
theorem test_sbox_toy : (after (.sbox 0) (operand toy 0x5 4)).res = 0x3 ∧
    (after (.sbox 1) (operand toy 0xD 4)).res = 0x7 := by decide
theorem test_msge : (after .msge { keyedToy with msgLen := 8, done := false }).statusWord = 0x00000027 ∧
    (after .msge { keyedToy with msgLen := 8, done := false }).msgPad = 1 := by decide
theorem test_msge_length :
    (after .msge { keyedToy with ctrl := { keyedToy.ctrl with padMode := .bit }, msgLen := 4 }).statusWord
      = 0x00002302 := by decide
theorem test_msgd : (after .msgd { keyedToy with msgLen := 9, done := false }).statusWord = 0x0000002F := by
  decide
theorem test_mabt : (after .mabt { streaming [] [] 8 0 with outFifo := [1, 2] }).statusWord = 0x00000102 ∧
    (after .mabt { streaming [] [] 8 0 with outFifo := [1, 2] }).fifoStatWord = 0x000A0000 := by decide
theorem test_unpk : (after (.unpk 3) { State.reset with inFifo := [0x61, 0x62, 0x63] }).bv = 0x636261 ∧
    (after (.unpk 3) { State.reset with inFifo := [0x61, 0x62, 0x63] }).bvLen = 24 := by decide
theorem test_unpk_underflow :
    (after (.unpk 1) State.reset).statusWord = 0x0000A300 ∧ (after (.unpk 1) State.reset).errInfo = 0x150 := by
  decide
theorem test_pack : (after .pack (operand State.reset 0x636261 24)).outFifo = [0x61, 0x62, 0x63] := by decide
theorem test_pack_length : (after .pack (operand State.reset 0 20)).statusWord = 0x00002300 := by decide

/-! ### The window and the stream (95_test_vectors.md sections 3.6, 3.7) -/

theorem test_locked_write :
    (stateAfter (step ((streaming [] [] 8 0).facingWrite 0x030 1))).statusWord = 0x00018227 := by decide
theorem test_push_when_full :
    (stateAfter (step (({ State.reset with inFifo := List.replicate 16 0 }).facingWrite 0x050 7))).statusWord
      = 0x00019200 := by decide
theorem test_pop : (stateAfter (step (({ State.reset with outFifo := [0x61] }).facingRead 0x054))).readData
    = 0x161 := by decide
theorem test_clamped_length :
    (stateAfter (step (State.reset.facingWrite 0x020 70))).keyLen = 64 := by decide
/-- An empty message finishes at once (41_chunker_stream.md R455). -/
theorem test_empty_message :
    (stateAfter (Host.Core.run Sys2Proof.core 2
      { keyedToy with msgLen := 0, pending := some 0x40 })).statusWord = 0x00000102 := by decide

/-! ### Witnesses: a state and operands that meet the hypotheses of each obligation -/

/-- A byte string, a free slot and no error: the invariants of a message in progress. -/
theorem streaming_inv : StreamInv (streaming [] [] 3 0) ∧ FieldsInRange (streaming [] [] 3 0) := by
  refine ⟨⟨?_, ?_, ?_, ?_, ?_, ?_, ?_, ?_, ?_⟩, ⟨?_, ?_, ?_, ?_, ?_, ?_, ?_, ?_, ?_⟩⟩ <;> decide

theorem witness_DecodeOfEncode : WellFormed .nop ∧ WellFormed (.round 0) ∧ WellFormed (.unpk 255) := by
  decide

theorem witness_EncodeOfDecode : decode 0x0000FF20 = .command (.round 255) := by decide

theorem witness_IllegalWordsExactly :
    decode 0x00000052 = .illegal .reservedOpcode ∧ decode 0xFFFF0000 = .illegal .reservedBits ∧
    decode 0x0000FF51 = .illegal .unusedArgument := by decide

theorem witness_StepRunsTheDecodedCommand :
    ({ toy with pending := some 0x23 } : State).pending = some 0x23 ∧
    decode 0x23 = .command .swap ∧ ({ toy with pending := some 0x23 } : State).agenda = [] := by decide

/-- One state per clause: a soft reset, an abort, a rejection and an acceptance. -/
theorem witness_CommandAcceptance :
    (0x01 : Word).toNat = 0x01 ∧
    ((0x42 : Word).toNat = 0x42 ∧ (streaming [] [] 8 0).busy = true ∧
      (streaming [] [] 8 0).stream.active = true) ∧
    ((0x21 : Word).toNat ≠ 0x42 ∧ (streaming [] [] 8 0).busy = true) ∧
    (({ toy with pending := some 0 } : State).busy = true ∧
      ({ toy with pending := some 0 } : State).stream.active = false) ∧ toy.busy = false := by decide

/-- One word per check of 30_encoding.md R320, and one that passes. -/
theorem witness_PendingWordReportsFirstFailingCheck :
    firstFailingCheck 0x00000002 toy = some .illegalCommand ∧
    firstFailingCheck 0x00000A30 toy = some .badArgument ∧
    firstFailingCheck 0x00000020 toy = some .keyNotReady ∧
    firstFailingCheck 0x00000524 keyedToy = some .badRoundIndex ∧
    firstFailingCheck 0x10 { State.reset with ctrl := { Ctrl.reset with nrounds := 17 } } = some .config ∧
    firstFailingCheck 0x10 { State.reset with keyLen := 63 } = some .keyLength ∧
    firstFailingCheck 0x00000230 (operand toy 0 31) = some .shape ∧
    firstFailingCheck 0x00000051 (operand toy 0 20) = some .length ∧
    firstFailingCheck 0x00000150 toy = some .fifoUnderflow ∧
    firstFailingCheck 0x00000051 { operand toy 0 64 with outFifo := List.replicate 9 0 }
      = some .fifoOverflow ∧
    firstFailingCheck 0x00000424 keyedToy = none ∧
    ({ toy with pending := some 2 } : State).pending = some 2 := by decide

theorem witness_NopOnlyCompletes :
    toy.busy = false ∧ (streaming [] [] 3 0).busy = true := by decide

theorem witness_SoftResetIsTheResetEvent : toy.params.Legal := by decide

theorem witness_ResetValues : Params.Legal ⟨8, 255, 1⟩ ∧ Params.Legal ⟨255, 8, 0⟩ := by decide

/-- At the first and the last round count, and with a key longer than needed. -/
theorem witness_KexpToyRoundKeys :
    (toy.ctrl.variant = .toy ∧ 1 ≤ toy.rounds ∧ toy.rounds ≤ 16 ∧ 9 ≤ toy.keyLen.toNat) ∧
    (let s : State := { toy with ctrl := { toy.ctrl with nrounds := 16 }, keyLen := 64 };
      s.ctrl.variant = .toy ∧ 1 ≤ s.rounds ∧ s.rounds ≤ 16 ∧ 9 ≤ s.keyLen.toNat) := by decide

theorem witness_KexpFullRoundKeys :
    (full.ctrl.variant = .full ∧ 1 ≤ full.rounds ∧ full.rounds ≤ 16 ∧ 64 ≤ full.keyLen.toNat) ∧
    (let s : State := { full with ctrl := { full.ctrl with nrounds := 1 } };
      s.ctrl.variant = .full ∧ 1 ≤ s.rounds ∧ s.rounds ≤ 16 ∧ 64 ≤ s.keyLen.toNat) := by decide

theorem witness_FeistelFunctionByLanes :
    ((seqOf 32 full.halfR).length = halfWidth .full ∧
      (seqOf 48 (0 : BitVec 48)).length = roundKeyWidth .full) ∧
    ((seqOf 6 toy.halfR).length = halfWidth .toy ∧
      (seqOf 8 (0xA6 : BitVec 48)).length = roundKeyWidth .toy) := by decide

theorem witness_FfnAndRoundResults :
    keyedToy.keyValid = true ∧ (1 ≤ 1 ∧ 1 ≤ keyedToy.rounds) ∧ (1 ≤ 4 ∧ 4 ≤ keyedToy.rounds) := by decide

theorem witness_BlockRoundTripAndComposition :
    keyedToy.keyValid = true ∧ (seqOf 6 toy.halfL).length = halfWidth .toy ∧
    (seqOf 32 full.halfR).length = halfWidth .full := by decide

/-- A fixed table of each input width, the user table and the empty user table. -/
theorem witness_PermAppliesTheTable :
    (fixedTable 0 = some (64, tableIP) ∧ (operand toy 1 64).bvLen.toNat = 64) ∧
    (fixedTable 9 = some (9, tableTPC2) ∧ (operand toy 1 9).bvLen.toNat = 9) ∧
    (let s : State := { operand toy 0x20 6 with utabLen := 1, utab := toy.utab.set 0 5 };
      s.utabLen.toNat ≤ 64 ∧ ([5] : List Nat).length = s.utabLen.toNat ∧
      (∀ j < 1, ([5] : List Nat)[j]? = (s.utab[j]?).map BitVec.toNat) ∧
      ∀ u ∈ ([5] : List Nat), u < s.bvLen.toNat) ∧
    (([] : List Nat).length = toy.utabLen.toNat) := by decide

theorem witness_FixedTableProperties :
    (seqOf 64 (1 : BitVec 64)).length = 64 ∧ fixedTable 0 = some (64, tableIP) ∧
    fixedTable 8 = some (9, tableTPC1) := by decide

theorem witness_SboxLooksUpTheEntry :
    (7 < boxCount (operand full 0x20 6).ctrl.variant ∧
      (operand full 0x20 6).bvLen.toNat = boxIn (operand full 0x20 6).ctrl.variant) ∧
    (1 < boxCount (operand toy 0x5 4).ctrl.variant ∧
      (operand toy 0x5 4).bvLen.toNat = boxIn (operand toy 0x5 4).ctrl.variant) := by decide

theorem witness_UnpkMovesBytesToBv :
    let s : State := { toy with inFifo := List.replicate 8 0x61 }
    (1 ≤ 1 ∧ 1 ≤ 8 ∧ 1 ≤ s.inFifo.length) ∧ (1 ≤ 8 ∧ 8 ≤ 8 ∧ 8 ≤ s.inFifo.length) := by decide

theorem witness_PackPushesBvBytes :
    ((operand toy 0 0).bvLen.toNat % 8 = 0 ∧
      (operand toy 0 0).bvLen.toNat / 8 ≤ toy.params.outDepth - toy.outFifo.length) ∧
    ((operand toy 0 64).bvLen.toNat % 8 = 0 ∧
      (operand toy 0 64).bvLen.toNat / 8 ≤ toy.params.outDepth - toy.outFifo.length) := by decide

theorem witness_CodecRoundTrip :
    let s : State := { toy with inFifo := List.replicate 8 0x61 }
    (toBits [0x61]).length % 8 = 0 ∧
    (1 ≤ 8 ∧ 8 ≤ 8 ∧ 8 ≤ s.inFifo.length ∧ 8 ≤ s.params.outDepth - s.outFifo.length) := by decide

theorem witness_PaddingAmountClosedForms :
    (8 * (7 + 1)) % blockWidth .full = 0 ∧ (8 * 3) % blockWidth .toy = 0 ∧
    (PadMode.bit = .bit ∧ padAmount .toy .bit 4 % 8 ≠ 0) := by decide

theorem witness_MessageStart :
    keyedToy.keyValid = true ∧
    paddingFits keyedToy.ctrl.variant keyedToy.ctrl.padMode keyedToy.msgLen.toNat := by
  unfold paddingFits; decide

theorem witness_AbortEmptiesTheStream :
    (streaming [] [] 8 0).stream.active = true ∧
    ({ toy with pending := some 0x42 } : State).pending = some 0x42 := by decide

/-- One state per micro-step. -/
theorem witness_DrainFillPadSteps :
    ((streaming [] (List.replicate 8 true) 0 0).pending = none ∧
      (streaming [] (List.replicate 8 true) 0 0).stream.active = true ∧
      8 ≤ (streaming [] (List.replicate 8 true) 0 0).stream.obuf.length ∧
      (streaming [] (List.replicate 8 true) 0 0).outFifo.length < toy.params.outDepth) ∧
    (let s : State := { streaming [] [] 1 0 with inFifo := [0x61] };
      ¬(8 ≤ s.stream.obuf.length ∧ s.outFifo.length < s.params.outDepth) ∧
      s.stream.ibuf.length < blockWidth s.ctrl.variant ∧ 0 < s.stream.bytesLeft ∧ s.inFifo = 0x61 :: []) ∧
    (let s : State := streaming [] [] 0 1;
      s.stream.bytesLeft = 0 ∧ 0 < s.stream.padLeft ∧ s.ctrl.padMode = .byte) ∧
    (let s : State := { streaming [true, false, true, false] [] 0 8 with
        ctrl := { toy.ctrl with padMode := .bit } };
      s.stream.bytesLeft = 0 ∧ 0 < s.stream.padLeft ∧ s.ctrl.padMode = .bit) := by decide

theorem witness_BlockAndFinishSteps :
    (let s : State := streaming (List.replicate 12 true) [] 0 0;
      s.pending = none ∧ s.stream.active = true ∧
      s.stream.ibuf = List.replicate 12 true ++ [] ∧
      (List.replicate 12 true).length = blockWidth s.ctrl.variant ∧ s.stream.obuf.length < 8) ∧
    (let s : State := streaming [] [] 0 0;
      s.stream.ibuf = [] ∧ s.stream.bytesLeft = 0 ∧ s.stream.padLeft = 0 ∧ s.stream.obuf = []) ∧
    (let s : State := { streaming [] [] 0 0 with msgLen := 2, msgPad := 1, msgBlocks := 2 };
      s.stream.active = true ∧ BlockCount s) := by unfold BlockCount; decide

theorem witness_BlockTransformInverts :
    (List.replicate 12 true).length = blockWidth .toy ∧
    (List.replicate 64 false).length = blockWidth .full := by decide

/-- A stream that waits for input, and one whose output FIFO is full. -/
theorem witness_HoldsAreStallOrWait :
    (StreamInv (streaming [] [] 3 0) ∧ FieldsInRange (streaming [] [] 3 0) ∧
      (streaming [] [] 3 0).stream.active = true ∧ (streaming [] [] 3 0).pending = none ∧
      (streaming [] [] 3 0).inWait = true ∧ (streaming [] [] 3 0).nextMicroStep = none) ∧
    (let s : State := { streaming [] (List.replicate 8 true) 3 0 with outFifo := List.replicate 16 0 };
      StreamInv s ∧ FieldsInRange s ∧ s.outStall = true) := by
  refine ⟨⟨streaming_inv.1, streaming_inv.2, by decide⟩, ?_, ?_, by decide⟩
  · refine ⟨?_, ?_, ?_, ?_, ?_, ?_, ?_, ?_, ?_⟩ <;> decide
  · refine ⟨?_, ?_, ?_, ?_, ?_, ?_, ?_, ?_, ?_⟩ <;> decide

theorem withInput_inv :
    StreamInv { streaming [] [] 3 0 with inFifo := [0x61, 0x62, 0x63] } := by
  refine ⟨?_, ?_, ?_, ?_, ?_, ?_, ?_, ?_, ?_⟩ <;> decide

theorem witness_MicroStepsKeepTheOutput :
    let s : State := { streaming [] [] 3 0 with inFifo := [0x61, 0x62, 0x63] }
    StreamInv s ∧ s.stream.active = true ∧ s.pending = none ∧ s.stream.bytesLeft ≤ s.inFifo.length ∧
      ∃ t, step (s.facing .engine) = .next t :=
  ⟨withInput_inv, by decide, by decide, by decide, _, rfl⟩

theorem witness_ServedMessageFinishes :
    let s : State := { streaming [] [] 3 0 with inFifo := [0x61, 0x62, 0x63], msgLen := 3 }
    StreamInv s ∧ s.stream.active = true ∧ s.pending = none ∧ s.agenda = [] ∧
      s.stream.bytesLeft ≤ s.inFifo.length ∧
      8 * s.outFifo.length + s.stream.obuf.length + s.inputBits.length ≤ 8 * s.params.outDepth ∧
      BlockCount s := by
  refine ⟨⟨?_, ?_, ?_, ?_, ?_, ?_, ?_, ?_, ?_⟩, by decide, by decide, by decide, by decide, by decide, ?_⟩ <;>
    first
    | decide
    | (unfold BlockCount; decide)

/-- A message that needs filler, in BYTE mode. -/
theorem witness_StreamRoundTrip :
    let s : State := { keyedToy with inFifo := [0x61, 0x62], msgLen := 2 }
    StreamInv s ∧ s.stream.active = false ∧ s.agenda = [] ∧ s.keyValid = true ∧ s.outFifo = [] ∧
      s.msgLen.toNat = [0x61, 0x62].length ∧
      paddingFits s.ctrl.variant s.ctrl.padMode 2 ∧
      2 + paddingUnits s.ctrl.variant s.ctrl.padMode 2 ≤ s.params.outDepth := by
  refine ⟨⟨?_, ?_, ?_, ?_, ?_, ?_, ?_, ?_, ?_⟩, ?_, ?_, ?_, ?_, ?_, ?_, ?_⟩ <;>
    first
    | decide
    | (unfold paddingFits; decide)

theorem witness_RaisedErrorIsRecorded :
    toy.errFlag = false ∧ (after .encb toy).errFlag = true := by decide

/-- A later error keeps the first, a write of 1 to `ERR` clears it, and so does the reset event. -/
theorem witness_FirstErrorStaysUntilCleared :
    (after .encb toy).error = some ⟨.keyNotReady, .command, 0x21, false⟩ ∧
    (stateAfter (step ((after .encb toy).facingWrite 0x010 0x02))).error
      = some ⟨.keyNotReady, .command, 0x21, false⟩ ∧
    (stateAfter (step ((after .encb toy).facingWrite 0x00C 0x200))).error = none ∧
    (stateAfter (step ((after .encb toy).facing .reset))).error = none := by decide

theorem witness_BusyLock :
    (streaming [] [] 3 0).busy = true ∧ ({ toy with pending := some 0 } : State).busy = true ∧
    0x1FC = 0x100 + 4 * 63 := by decide

theorem witness_KeyWritesClearKeyValid :
    keyedToy.busy = false ∧ keyedToy.keyValid = true ∧
    (0x00000401 : Word).getLsbD 0 = decide (keyedToy.ctrl.variant = .toy) ∧
    (0x00000401 : Word).extractLsb' 8 5 = keyedToy.ctrl.nrounds := by decide

theorem witness_WrittenValuesReadBack :
    toy.busy = false ∧ (127 : Word).toNat < 128 ∧ (64 : Word).toNat < 128 := by decide

theorem reset_inRange : FieldsInRange State.reset := by
  refine ⟨?_, ?_, ?_, ?_, ?_, ?_, ?_, ?_, ?_⟩ <;> decide

/-- At the edges of the selectable round keys. -/
theorem witness_ReadOnlyRegisterValues :
    State.reset.busy = false ∧ State.reset.params.Legal ∧ State.reset.rkSel.toNat = 0 ∧
    ({ State.reset with rkSel := 1 } : State).rkSel.toNat = 1 ∧
    ({ State.reset with rkSel := 16 } : State).rkSel.toNat = 16 ∧
    16 < ({ State.reset with rkSel := 17 } : State).rkSel.toNat :=
  ⟨by decide, by decide, by decide, by decide, by decide, by decide⟩

theorem witness_FifoStatShowsTheLevels : FieldsInRange State.reset := reset_inRange

theorem witness_FifoPush :
    toy.inFifo.length ≠ toy.params.inDepth ∧
    ({ toy with inFifo := List.replicate 16 0 } : State).inFifo.length = toy.params.inDepth := by decide

theorem witness_FifoPop :
    toy.outFifo = [] ∧ ({ toy with outFifo := [0x61, 0x62] } : State).outFifo = 0x61 :: [0x62] := by decide

theorem witness_IgnoredAccesses : (27 ≤ 27 ∧ 27 < 64) ∧ (27 ≤ 63 ∧ 63 < 64) := by decide

theorem witness_ReadsWhileBusyAreFree :
    (streaming [] [] 3 0).busy = true ∧ toy.busy = false ∧ 127 < 128 ∧ 127 ≠ 21 ∧
    ({ toy with rkSel := 16 } : State).rkSel.toNat = 15 + 1 ∧
    16 < ({ toy with rkSel := 17 } : State).rkSel.toNat := by decide

theorem witness_OnlyContractAccesses :
    (4 = 4 ∧ 0x1FC % 4 = 0 ∧ 0x1FC < 0x200) ∧ ¬(4 = 4 ∧ 0x200 % 4 = 0 ∧ 0x200 < 0x200) ∧
    ¬(2 = 4 ∧ 0 % 4 = 0 ∧ 0 < 0x200) := by decide

/-- A completing command under `IE_DONE`, a failing one and a rejected write under `IE_ERR`. -/
theorem witness_InterruptOutput :
    (let s : State := { toy with ctrl := { toy.ctrl with ieDone := true }, pending := some 0 };
      s.ctrl.ieDone = true ∧ s.busy = true ∧ (stateAfter (step s)).busy = false ∧
      ((0x300 : Word).getLsbD 8 = true ∧ (0x300 : Word).getLsbD 9 = true)) ∧
    (let s : State := { toy with ctrl := { toy.ctrl with ieErr := true }, pending := some 0x21 };
      s.ctrl.ieErr = true ∧ firstFailingCheck 0x21 s = some .keyNotReady ∧
      (stateAfter (step (s.facingWrite 0x030 0))).error ≠ s.error ∧
      (stateAfter (step (s.facingWrite 0x030 0))).errFlag = true) := by decide

theorem witness_DoneMarksCompletion :
    let s : State := { toy with pending := some 0 }
    StreamInv s ∧ s.busy = true ∧ s.done = false ∧
      (stateAfter (step s)).busy = false ∧ (stateAfter (step s)).done = true := by
  refine ⟨⟨?_, ?_, ?_, ?_, ?_, ?_, ?_, ?_, ?_⟩, ?_, ?_, ?_, ?_⟩ <;> decide

theorem witness_RoundKeysChangeOnlyByKexp :
    (stateAfter (step { toy with pending := some 0x10 })).rkf ≠ toy.rkf ∧
    (stateAfter (step (keyedToy.facing .reset))).rkf ≠ keyedToy.rkf := by decide

/-- Consumption by `UNPK` and by a fill step, production by `PACK` and by a drain step. -/
theorem witness_FifoTraffic :
    (stateAfter (engineStep { toy with inFifo := [1, 2], pending := some 0x150 })).inFifo = [2] ∧
    (stateAfter (engineStep { streaming [] [] 1 0 with inFifo := [1, 2] })).inFifo = [2] ∧
    (stateAfter (engineStep { operand toy 7 8 with pending := some 0x51 })).outFifo = [7] ∧
    (stateAfter (engineStep (streaming [] (List.replicate 8 true) 0 0))).outFifo = [0xFF] := by decide

theorem witness_RunningMessageTouchesOnlyTheStream :
    (streaming [] [] 3 0).pending = none ∧ (streaming [] [] 3 0).stream.active = true ∧
      ∃ t, step ((streaming [] [] 3 0).facing .engine) = .next t :=
  ⟨by decide, by decide, _, rfl⟩

theorem witness_EngineLeavesHostRegisters :
    (∃ t, step (({ toy with pending := some 0x10 } : State).facing .engine) = .next t) ∧
    decode 0x10 ≠ .command .srst := ⟨⟨_, rfl⟩, by decide⟩

theorem witness_StepKeepsFieldsInRange : FieldsInRange State.reset ∧ ∃ t, step State.reset = .next t :=
  ⟨reset_inRange, _, rfl⟩

/-- A state whose key schedule is valid and coherent. -/
theorem witness_StepKeepsKeyCoherent :
    KeyCoherent keyedToy ∧ keyedToy.keyValid = true ∧ ∃ t, step keyedToy = .next t :=
  ⟨fun _ => by decide, by decide, _, rfl⟩

theorem witness_StepKeepsStreamInv :
    StreamInv (streaming [] [] 3 0) ∧ ∃ t, step (streaming [] [] 3 0) = .next t :=
  ⟨streaming_inv.1, _, rfl⟩

theorem witness_StepKeepsBlockCount :
    let s : State := { streaming [] [] 3 0 with inFifo := [0x61, 0x62, 0x63], msgLen := 3 }
    BlockCount s ∧ s.stream.active = true ∧ ∃ t, step s = .next t :=
  ⟨by unfold BlockCount; decide, by decide, _, rfl⟩

theorem witness_AcceptedWritesSetOnlyTheirRegister :
    toy.busy = false ∧ (127 : Word).toNat < 128 ∧ (63 < 64 ∧ 62 < 64 ∧ 62 ≠ 63) := by decide

theorem witness_ResetSatisfiesInvariants : Params.Legal ⟨8, 8, 0⟩ ∧ Params.Legal ⟨255, 255, 1⟩ := by decide

end Sys2Proof.Tests
end

section
/-! Every step keeps `FieldsInRange`: one rule per operation that a step performs, then the cases of
`step_cases`. A rule gives the bounds of the fields the operation writes and takes the others from the state
before it. -/

namespace Sys2Proof.Machine

/-! ### Lengths of what the commands write -/

theorem length_fromBits (x : Bits) : (fromBits x).length = x.length / 8 := by simp [fromBits]

theorem length_fixedTable_le {t width : Nat} {table : List Nat}
    (h : fixedTable t = some (width, table)) : table.length ≤ 64 := by
  unfold fixedTable at h
  split at h <;> cases h <;> decide

/-- `UTAB` has 64 entries, so the user table has no more, whatever `UTAB_LEN` is (10_state.md R148). -/
theorem length_userTable_le (s : State) : s.userTable.length ≤ 64 := by simp [State.userTable]

theorem length_permTable_le {s : State} {t : Nat} {table : List Nat} (h : s.permTable t = some table) :
    table.length ≤ 64 := by
  unfold State.permTable at h
  split at h
  · cases h; exact length_userTable_le s
  · obtain ⟨⟨width, _⟩, hf, rfl⟩ := Option.map_eq_some_iff.mp h
    exact length_fixedTable_le hf

/-! ### The shared operations -/

theorem fieldsInRange_complete {s : State} (h : FieldsInRange s) : FieldsInRange (complete s) :=
  { h with }

theorem fieldsInRange_raiseError {s : State} (h : FieldsInRange s) (c : ErrorCode) (src : ErrorSource)
    (info : Word) : FieldsInRange (raiseError c src info s) :=
  { h with }

theorem fieldsInRange_failCommand {s : State} (h : FieldsInRange s) (c : ErrorCode) (w : Word) :
    FieldsInRange (failCommand c w s) :=
  fieldsInRange_complete (fieldsInRange_raiseError h c .command w)

/-- The reset values are within every bound, for every legal choice of parameters (10_state.md R170). -/
theorem fieldsInRange_resetWith {p : Params} (hp : p.Legal) : FieldsInRange (State.resetWith p) where
  params := hp
  inLevel := Nat.zero_le _
  outLevel := Nat.zero_le _
  keyLen := Nat.zero_le _
  bvLen := Nat.zero_le _
  utabLen := Nat.zero_le _
  resLen := Nat.zero_le _
  res := Nat.one_pos
  msgPad := Nat.zero_le _

theorem fieldsInRange_resetBlock {s : State} (h : FieldsInRange s) : FieldsInRange (resetBlock s) :=
  { fieldsInRange_resetWith h.params with }

/-- A result of at most 64 bits fits `RES`, and `RES_LEN` covers it (10_state.md R140). -/
theorem fieldsInRange_writeRes {s : State} {o : Bits} (h : FieldsInRange s) (ho : o.length ≤ 64) :
    FieldsInRange (writeRes o s) :=
  have hlen : (writeRes o s).resLen.toNat = o.length := by simp; omega
  { h with
    resLen := hlen.symm ▸ ho
    res := by rw [hlen, writeRes_res, toNat_regOf 64 o ho]; exact val_lt o }

theorem fieldsInRange_writeHalves {s : State} (h : FieldsInRange s) (p : Bits × Bits) :
    FieldsInRange (writeHalves p s) :=
  { h with }

/-! ### The commands -/

theorem fieldsInRange_kexpEffect {s : State} (h : FieldsInRange s) : FieldsInRange (kexpEffect s) :=
  { h with }

theorem fieldsInRange_ffnEffect {s : State} (h : FieldsInRange s) (i : Nat) :
    FieldsInRange (ffnEffect i s) := by
  refine fieldsInRange_writeRes h ?_
  have := halfWidth_le s.ctrl.variant
  rw [length_feistel]
  omega

theorem fieldsInRange_permEffect {s : State} (h : FieldsInRange s) (t : Nat) :
    FieldsInRange (permEffect t s) := by
  refine fieldsInRange_writeRes h ?_
  rw [length_applyTable]
  cases ht : s.permTable t with
  | none => exact Nat.zero_le _
  | some table => exact length_permTable_le ht

theorem fieldsInRange_sboxEffect {s : State} (h : FieldsInRange s) (k : Nat) :
    FieldsInRange (sboxEffect k s) := by
  refine fieldsInRange_writeRes h ?_
  rw [length_substitute]
  cases s.ctrl.variant <;> decide

/-- `MSG_PAD` receives the padding amount, which fits its byte (10_state.md R145). -/
theorem fieldsInRange_startMessage {s : State} (h : FieldsInRange s) (dec : Bool) :
    FieldsInRange (startMessage dec s) :=
  { h with
    msgPad := (Nat.mod_le _ _).trans (padAmount_le s.ctrl.variant s.ctrl.padMode s.msgLen.toNat) }

/-- `UNPK n` with a legal count writes at most 64 bits to `BV` (40_codec.md R410). -/
theorem fieldsInRange_unpkEffect {s : State} {n : Nat} (h : FieldsInRange s) (hn : n ≤ 8) :
    FieldsInRange (unpkEffect n s) :=
  { h with
    inLevel := (s.inFifo.drop_sublist n).length_le.trans h.inLevel
    bvLen := (Nat.mod_le _ _).trans (by omega) }

/-- `PACK` with room for its bytes does not overfill the output FIFO (40_codec.md R415). -/
theorem fieldsInRange_packEffect {s : State} (h : FieldsInRange s)
    (hroom : s.bvLen.toNat / 8 ≤ s.params.outDepth - s.outFifo.length) :
    FieldsInRange (packEffect s) :=
  { h with
    outLevel := by
      have hlevel := h.outLevel
      have hbytes : (fromBits s.bvSeq).length = s.bvLen.toNat / 8 := by
        rw [length_fromBits, State.bvSeq, length_seqOf]
      show (s.outFifo ++ fromBits s.bvSeq).length ≤ s.params.outDepth
      rw [List.length_append, hbytes]
      omega }

/-- A command that passes its checks keeps the bounds. -/
theorem fieldsInRange_success {i : Instr} {s : State} (h : FieldsInRange s)
    (hc : ∀ c ∈ checksOf i s, c.1 = false) : FieldsInRange (success i s) := by
  cases i with
  | nop => exact fieldsInRange_complete h
  | srst => exact fieldsInRange_resetBlock h
  | kexp => exact fieldsInRange_complete (fieldsInRange_kexpEffect h)
  | round i => exact fieldsInRange_complete (fieldsInRange_writeHalves h _)
  | encb => exact fieldsInRange_complete (fieldsInRange_writeHalves h _)
  | decb => exact fieldsInRange_complete (fieldsInRange_writeHalves h _)
  | swap => exact fieldsInRange_complete (fieldsInRange_writeHalves h _)
  | ffn i => exact fieldsInRange_complete (fieldsInRange_ffnEffect h i)
  | perm t => exact fieldsInRange_complete (fieldsInRange_permEffect h t)
  | sbox k => exact fieldsInRange_complete (fieldsInRange_sboxEffect h k)
  | msge => exact fieldsInRange_startMessage h false
  | msgd => exact fieldsInRange_startMessage h true
  | mabt => exact { h with inLevel := Nat.zero_le _, outLevel := Nat.zero_le _ }
  | unpk n =>
    have hn : n ≤ 8 := by simp [checksOf] at hc; omega
    exact fieldsInRange_complete (fieldsInRange_unpkEffect h hn)
  | pack =>
    have hroom : s.bvLen.toNat / 8 ≤ s.params.outDepth - s.outFifo.length := by
      simp [checksOf] at hc; omega
    exact fieldsInRange_complete (fieldsInRange_packEffect h hroom)

theorem fieldsInRange_exec {i : Instr} {s t : State} (h : FieldsInRange s) (he : exec i s = .next t) :
    FieldsInRange t := by
  obtain ⟨code, -, rfl⟩ | ⟨hc, rfl⟩ := exec_cases he
  · exact fieldsInRange_failCommand h code _
  · exact fieldsInRange_success h hc

/-! ### The stream -/

/-- A micro-step whose condition holds keeps the bounds: the drain step has room, and the fill step only
shortens the input FIFO (41_chunker_stream.md R460). -/
theorem fieldsInRange_microStep {m : MicroStep} {s : State} (h : FieldsInRange s) (hm : m.Enabled s) :
    FieldsInRange (microStep m s) := by
  cases m with
  | drain =>
    obtain ⟨-, hroom⟩ := hm
    exact { h with outLevel := by rw [microStep, drainStep_outFifo, List.length_append]; exact hroom }
  | fill => exact { h with inLevel := (s.inFifo.drop_sublist 1).length_le.trans h.inLevel }
  | block => exact { h with }
  | pad => exact { h with }
  | finish => exact { h with }

theorem fieldsInRange_streamStep {s : State} (h : FieldsInRange s) : FieldsInRange (streamStep s) := by
  unfold streamStep
  split
  · next m hm => exact fieldsInRange_microStep h (enabled_of_nextMicroStep hm)
  · exact h

/-! ### The host's accesses -/

theorem fieldsInRange_readEffect {s : State} (h : FieldsInRange s) (r : Reg) :
    FieldsInRange (readEffect r s) := by
  cases r with
  | fifoOut => exact { h with outLevel := (s.outFifo.drop_sublist 1).length_le.trans h.outLevel }
  | _ => exact h

theorem fieldsInRange_readReg {s : State} (h : FieldsInRange s) (r : Reg) :
    FieldsInRange (readReg r s) := by
  unfold readReg
  split
  · exact { h with }
  · exact { fieldsInRange_readEffect h r with }

/-- A push is made only into a FIFO that is not full (20_memory.md R220). -/
theorem fieldsInRange_pushIn {s : State} (h : FieldsInRange s) (v : Word) :
    FieldsInRange (pushIn v s) := by
  unfold pushIn
  split
  · exact fieldsInRange_raiseError h _ _ _
  · next hfull =>
    have hroom : s.inFifo.length < s.params.inDepth := Nat.lt_of_le_of_ne h.inLevel hfull
    exact { h with inLevel := by rw [List.length_append]; exact hroom }

/-- The bounded fields a write can reach are the three clamped lengths and the input FIFO. -/
theorem fieldsInRange_setReg {s : State} (h : FieldsInRange s) (r : Reg) (v : Word) :
    FieldsInRange (setReg r v s) := by
  cases r with
  | keyLen => exact { h with keyLen := clampLen_le v }
  | bvLen => exact { h with bvLen := clampLen_le v }
  | utabLen => exact { h with utabLen := clampLen_le v }
  | fifoIn => exact fieldsInRange_pushIn h v
  | _ => exact { h with }

theorem fieldsInRange_writeReg {s : State} (h : FieldsInRange s) (off : Nat) (v : Word) :
    FieldsInRange (writeReg off v s) := by
  unfold writeReg
  split
  · exact fieldsInRange_raiseError h _ _ _
  · exact fieldsInRange_setReg h _ v

/-! ### The step -/

theorem fieldsInRange_hostCase {a : Access} {s t : State} (h : FieldsInRange s) (hc : HostCase a s t) :
    FieldsInRange t := by
  cases hc with
  | read off ha ht => exact ht ▸ fieldsInRange_readReg h _
  | write off v ha hoff ht => exact ht ▸ fieldsInRange_writeReg h off v
  | srst w ha ht => exact ht ▸ fieldsInRange_resetBlock h
  | mabt w ha hm ht => exact ht ▸ fieldsInRange_success h (by simp [checksOf])
  | rejected w ha hb ht => exact ht ▸ fieldsInRange_raiseError h _ _ _
  | accepted w ha hb ht => exact ht ▸ { h with }

theorem fieldsInRange_engineCase {s t : State} (h : FieldsInRange s) (hc : EngineCase s t) :
    FieldsInRange t := by
  cases hc with
  | command w i hp hd he => exact fieldsInRange_exec h he
  | illegal w r hp hd ht => exact ht ▸ fieldsInRange_failCommand h _ w
  | stream hp ha ht => exact ht ▸ fieldsInRange_streamStep h
  | idle hp ha ht => exact ht ▸ h

/-- Settles O53, by the cases of a step: the reset event, a host access, the engine's turn. -/
theorem stepKeepsFieldsInRange : Obligations.StepKeepsFieldsInRange := by
  intro s t h hstep
  have hpop : FieldsInRange { s with agenda := s.agenda.tail } := { h with }
  cases step_cases hstep with
  | reset rest hs ht => exact ht ▸ fieldsInRange_resetBlock hpop
  | host a rest hs hc => exact fieldsInRange_hostCase hpop hc
  | engine hc => exact fieldsInRange_engineCase hpop hc

end Sys2Proof.Machine
end

section
/-! The frames of the accesses that every invariant meets: a read changes the output FIFO and the model's own
fields at most, a push the input FIFO or the error record (20_memory.md R206, R220, R221). -/

namespace Sys2Proof.Machine

theorem readReg_frame (r : Reg) (s : State) :
    ∃ q v n, readReg r s = { s with outFifo := q, readData := v, freeCount := n } := by
  unfold readReg
  split
  · exact ⟨_, _, _, rfl⟩
  · cases r <;> exact ⟨_, _, _, rfl⟩

theorem pushIn_frame (v : Word) (s : State) :
    ∃ q e, pushIn v s = { s with inFifo := q, error := e } := by
  unfold pushIn
  split <;> exact ⟨_, _, rfl⟩

end Sys2Proof.Machine
end

section
/-! Every step keeps `KeyCoherent`: only `KEXP`, a reset and the writes to `CTRL` and the key registers reach
the fields it speaks of; every other operation leaves it as it was, by definition (10_state.md R122,
20_memory.md R234). -/

namespace Sys2Proof.Machine

theorem keyCoherent_of_invalid {s : State} (h : s.keyValid = false) : KeyCoherent s := by
  intro hv; rw [h] at hv; cases hv

/-- A passing `KEXP` has checked the round count and the key length, and leaves the schedule it derives
(44_key_schedule.md R600, R605). -/
theorem keyCoherent_kexpEffect {s : State} (hc : ∀ c ∈ checksOf .kexp s, c.1 = false) :
    KeyCoherent (kexpEffect s) := by
  obtain ⟨hrounds, hlen⟩ :
      (1 ≤ s.rounds ∧ s.rounds ≤ 16) ∧ rawKeyWidth s.ctrl.variant ≤ s.keyLen.toNat := by
    simpa [checksOf] using hc
  exact fun _ => ⟨hrounds, hlen, rfl⟩

theorem keyCoherent_success {i : Instr} {s : State} (h : KeyCoherent s)
    (hc : ∀ c ∈ checksOf i s, c.1 = false) : KeyCoherent (success i s) := by
  cases i with
  | kexp => exact keyCoherent_kexpEffect hc
  | srst => exact keyCoherent_of_invalid rfl
  | _ => exact h

theorem keyCoherent_exec {i : Instr} {s t : State} (h : KeyCoherent s) (he : exec i s = .next t) :
    KeyCoherent t := by
  obtain ⟨code, -, rfl⟩ | ⟨hc, rfl⟩ := exec_cases he
  · exact h
  · exact keyCoherent_success h hc

theorem keyCoherent_streamStep {s : State} (h : KeyCoherent s) : KeyCoherent (streamStep s) := by
  unfold streamStep
  split
  · next m _ => cases m <;> exact h
  · exact h

theorem keyCoherent_readReg {s : State} (h : KeyCoherent s) (r : Reg) : KeyCoherent (readReg r s) := by
  obtain ⟨q, v, n, heq⟩ := readReg_frame r s
  exact heq ▸ h

/-- A write to `CTRL` that leaves `KEY_VALID` set leaves the variant and the round count, on which the
schedule depends (10_state.md R119). -/
theorem keyCoherent_writeCtrl {s : State} (h : KeyCoherent s) (v : Word) : KeyCoherent (writeCtrl v s) := by
  intro hv
  obtain ⟨hk, hvariant, hrounds⟩ : s.keyValid = true ∧
      (ctrlOfWord v).variant = s.ctrl.variant ∧ (ctrlOfWord v).nrounds = s.ctrl.nrounds := by
    simpa [writeCtrl] using hv
  simpa [writeCtrl, State.rounds, State.derivedKeys, State.rawKeySeq, hvariant, hrounds] using h hk

theorem keyCoherent_pushIn {s : State} (h : KeyCoherent s) (v : Word) : KeyCoherent (pushIn v s) := by
  obtain ⟨q, e, heq⟩ := pushIn_frame v s
  exact heq ▸ h

/-- Every write to a key register clears `KEY_VALID` (10_state.md R135). -/
theorem keyCoherent_setReg {s : State} (h : KeyCoherent s) (r : Reg) (v : Word) :
    KeyCoherent (setReg r v s) := by
  cases r with
  | ctrl => exact keyCoherent_writeCtrl h v
  | keyLo | keyHi | keyLen => exact keyCoherent_of_invalid rfl
  | fifoIn => exact keyCoherent_pushIn h v
  | _ => exact h

theorem keyCoherent_writeReg {s : State} (h : KeyCoherent s) (off : Nat) (v : Word) :
    KeyCoherent (writeReg off v s) := by
  unfold writeReg
  split
  · exact h
  · exact keyCoherent_setReg h _ v

theorem keyCoherent_hostCase {a : Access} {s t : State} (h : KeyCoherent s) (hc : HostCase a s t) :
    KeyCoherent t := by
  cases hc with
  | read off ha ht => exact ht ▸ keyCoherent_readReg h _
  | write off v ha hoff ht => exact ht ▸ keyCoherent_writeReg h off v
  | srst w ha ht => exact ht ▸ keyCoherent_of_invalid rfl
  | mabt w ha hm ht => exact ht ▸ h
  | rejected w ha hb ht => exact ht ▸ h
  | accepted w ha hb ht => exact ht ▸ h

theorem keyCoherent_engineCase {s t : State} (h : KeyCoherent s) (hc : EngineCase s t) :
    KeyCoherent t := by
  cases hc with
  | command w i hp hd he => exact keyCoherent_exec h he
  | illegal w r hp hd ht => exact ht ▸ h
  | stream hp ha ht => exact ht ▸ keyCoherent_streamStep h
  | idle hp ha ht => exact ht ▸ h

/-- Settles O54, by the cases of a step: the reset event, a host access, the engine's turn. -/
theorem stepKeepsKeyCoherent : Obligations.StepKeepsKeyCoherent := by
  intro s t h hstep
  have hpop : KeyCoherent { s with agenda := s.agenda.tail } := h
  cases step_cases hstep with
  | reset rest hs ht => exact ht ▸ keyCoherent_of_invalid rfl
  | host a rest hs hc => exact keyCoherent_hostCase hpop hc
  | engine hc => exact keyCoherent_engineCase hpop hc

end Sys2Proof.Machine
end

section
/-! Every step keeps `BlockCount`. The fields it speaks of are `CTRL`, `MSG_LEN`, `MSG_PAD`, `MSG_BLOCKS` and
the stream: a command either leaves them, starts a message or ends one, the micro-steps move bits among their
terms, and the host cannot write `CTRL` or `MSG_LEN` while a message runs (10_state.md R146, R160,
41_chunker_stream.md R466). -/

namespace Sys2Proof.Machine

/-- A message starts with all its bytes and all its filler still to come (41_chunker_stream.md R455). -/
theorem blockCount_startMessage (dec : Bool) (s : State) : BlockCount (startMessage dec s) := by
  intro _
  have hpad : s.padFor ≤ 63 := padAmount_le _ _ _
  have hmod : s.padFor % 256 = s.padFor := Nat.mod_eq_of_lt (by omega)
  cases hm : s.ctrl.padMode <;> simp [State.fillerLeft, State.messageBits, hm, hmod]

theorem blockCount_success {i : Instr} {s : State} (h : BlockCount s) : BlockCount (success i s) := by
  cases i with
  | msge => exact blockCount_startMessage false s
  | msgd => exact blockCount_startMessage true s
  | srst | mabt => exact blockCount_of_idle rfl
  | _ => exact h

theorem blockCount_exec {i : Instr} {s t : State} (h : BlockCount s) (he : exec i s = .next t) :
    BlockCount t := by
  obtain ⟨code, -, rfl⟩ | ⟨-, rfl⟩ := exec_cases he
  · exact h
  · exact blockCount_success h

/-- A block has at least 12 bits. -/
theorem le_blockWidth (v : Variant) : 12 ≤ blockWidth v := by cases v <;> decide

/-- The blocks of a message, each of at least 12 bits, are fewer than `2 ^ 32`, so the count does not wrap. -/
theorem toNat_msgBlocks_blockStep {s : State} (h : BlockCount s) (ha : s.stream.active = true)
    (hb : blockWidth s.ctrl.variant ≤ s.stream.ibuf.length) :
    (blockStep s).msgBlocks.toNat = s.msgBlocks.toNat + 1 := by
  have hcount := h ha
  have hbits := messageBits_le s
  have hwidth := le_blockWidth s.ctrl.variant
  have hmul : 12 * s.msgBlocks.toNat ≤ blockWidth s.ctrl.variant * s.msgBlocks.toNat :=
    Nat.mul_le_mul_right _ hwidth
  rw [blockStep_msgBlocks, BitVec.toNat_add]
  exact Nat.mod_eq_of_lt (by simp; omega)

theorem blockCount_blockStep {s : State} (h : BlockCount s) (ha : s.stream.active = true)
    (hm : MicroStep.block.Enabled s) : BlockCount (blockStep s) := by
  obtain ⟨hb, -⟩ := hm
  intro _
  have hcount := h ha
  rw [toNat_msgBlocks_blockStep h ha hb, Nat.mul_succ]
  have hibuf : (blockStep s).stream.ibuf.length = s.stream.ibuf.length - blockWidth s.ctrl.variant := by
    simp [blockStep]
  have hfill : (blockStep s).fillerLeft = s.fillerLeft := rfl
  have hbytes : (blockStep s).stream.bytesLeft = s.stream.bytesLeft := rfl
  have hbits : (blockStep s).messageBits = s.messageBits := rfl
  rw [hibuf, hfill, hbytes, hbits, blockStep_ctrl]
  omega

theorem blockCount_fillStep {s : State} (h : BlockCount s) (ha : s.stream.active = true)
    (hm : MicroStep.fill.Enabled s) : BlockCount (fillStep s) := by
  obtain ⟨-, hbytes, hin⟩ := hm
  intro _
  have hcount := h ha
  have hibuf : (fillStep s).stream.ibuf.length = s.stream.ibuf.length + 8 := by
    simp [fillStep, length_toBits]; omega
  have hleft : (fillStep s).stream.bytesLeft = s.stream.bytesLeft - 1 := rfl
  have hfill : (fillStep s).fillerLeft = s.fillerLeft := rfl
  have hbits : (fillStep s).messageBits = s.messageBits := rfl
  rw [hibuf, hleft, hfill, hbits, fillStep_ctrl, fillStep_msgBlocks]
  omega

/-- The pad step moves filler bits to `IBUF`: a byte of them, or all of them (41_chunker_stream.md R463). -/
theorem ibuf_fillerLeft_padStep {s : State} (h : 0 < s.stream.padLeft) :
    (padStep s).stream.ibuf.length + (padStep s).fillerLeft = s.stream.ibuf.length + s.fillerLeft := by
  cases hm : s.ctrl.padMode <;> simp [padStep, State.fillerLeft, hm]
  omega

theorem bytesLeft_padStep (s : State) : (padStep s).stream.bytesLeft = s.stream.bytesLeft := by
  cases hm : s.ctrl.padMode <;> simp [padStep, hm]

theorem blockCount_padStep {s : State} (h : BlockCount s) (ha : s.stream.active = true)
    (hm : MicroStep.pad.Enabled s) : BlockCount (padStep s) := by
  obtain ⟨-, -, hpad⟩ := hm
  intro _
  have hcount := h ha
  have hmoved := ibuf_fillerLeft_padStep hpad
  have hbits : (padStep s).messageBits = s.messageBits := rfl
  rw [bytesLeft_padStep, hbits, padStep_ctrl, padStep_msgBlocks]
  omega

theorem blockCount_microStep {m : MicroStep} {s : State} (h : BlockCount s) (ha : s.stream.active = true)
    (hm : m.Enabled s) : BlockCount (microStep m s) := by
  cases m with
  | drain => exact h
  | block => exact blockCount_blockStep h ha hm
  | fill => exact blockCount_fillStep h ha hm
  | pad => exact blockCount_padStep h ha hm
  | finish => exact blockCount_of_idle rfl

theorem blockCount_streamStep {s : State} (h : BlockCount s) (ha : s.stream.active = true) :
    BlockCount (streamStep s) := by
  unfold streamStep
  split
  · next m hm => exact blockCount_microStep h ha (enabled_of_nextMicroStep hm)
  · exact h

theorem blockCount_readReg {s : State} (h : BlockCount s) (r : Reg) : BlockCount (readReg r s) := by
  obtain ⟨q, v, n, heq⟩ := readReg_frame r s
  exact heq ▸ h

theorem blockCount_pushIn {s : State} (h : BlockCount s) (v : Word) : BlockCount (pushIn v s) := by
  obtain ⟨q, e, heq⟩ := pushIn_frame v s
  exact heq ▸ h

/-- The two registers of the count that the host can write, `CTRL` and `MSG_LEN`, are busy-locked, so no message
runs when they are written (10_state.md R160). -/
theorem blockCount_setReg {s : State} {r : Reg} (h : BlockCount s)
    (hfree : (s.busy && r.locked) = false) (v : Word) : BlockCount (setReg r v s) := by
  cases r with
  | ctrl | msgLen =>
    have hbusy : s.busy = false := by simpa [Reg.locked] using hfree
    exact blockCount_of_idle (busy_eq_false.mp hbusy).2
  | fifoIn => exact blockCount_pushIn h v
  | _ => exact h

theorem blockCount_writeReg {s : State} (h : BlockCount s) (off : Nat) (v : Word) :
    BlockCount (writeReg off v s) := by
  unfold writeReg
  split
  · exact h
  · next hfree => exact blockCount_setReg h (by simpa using hfree) v

theorem blockCount_hostCase {a : Access} {s t : State} (h : BlockCount s) (hc : HostCase a s t) :
    BlockCount t := by
  cases hc with
  | read off ha ht => exact ht ▸ blockCount_readReg h _
  | write off v ha hoff ht => exact ht ▸ blockCount_writeReg h off v
  | srst w ha ht => exact ht ▸ blockCount_of_idle rfl
  | mabt w ha hm ht => exact ht ▸ blockCount_of_idle rfl
  | rejected w ha hb ht => exact ht ▸ h
  | accepted w ha hb ht => exact ht ▸ h

theorem blockCount_engineCase {s t : State} (h : BlockCount s) (hc : EngineCase s t) : BlockCount t := by
  cases hc with
  | command w i hp hd he => exact blockCount_exec h he
  | illegal w r hp hd ht => exact ht ▸ h
  | stream hp ha ht => exact ht ▸ blockCount_streamStep h ha
  | idle hp ha ht => exact ht ▸ h

/-- Settles O57, by the cases of a step: the reset event, a host access, the engine's turn. -/
theorem stepKeepsBlockCount : Obligations.StepKeepsBlockCount := by
  intro s t h hstep
  have hpop : BlockCount { s with agenda := s.agenda.tail } := h
  cases step_cases hstep with
  | reset rest hs ht => exact ht ▸ blockCount_of_idle rfl
  | host a rest hs hc => exact blockCount_hostCase hpop hc
  | engine hc => exact blockCount_engineCase hpop hc

end Sys2Proof.Machine
end

section
/-! What a step does to the error record and to `BUSY` and `DONE` (10_state.md R121, R125, R126). -/

namespace Sys2Proof.Machine

/-! ### The error record -/

/-- The error record of `t` is `e` up to `ERR_MULTI`. -/
def KeepsError (e : ErrorRecord) (t : State) : Prop := ∃ m, t.error = some { e with multi := m }

theorem keepsError_of_eq {e : ErrorRecord} {s : State} (h : s.error = some e) : KeepsError e s :=
  ⟨e.multi, h⟩

/-- A later error sets `ERR_MULTI` and leaves the record of the first (60_exceptions.md R810). -/
theorem keepsError_raiseError {e : ErrorRecord} {s : State} (h : s.error = some e) (c : ErrorCode)
    (src : ErrorSource) (info : Word) : KeepsError e (raiseError c src info s) :=
  ⟨true, raiseError_error_of_some h c src info⟩

/-- A command that passes its checks leaves the error record, unless it resets the block
(60_exceptions.md R840). -/
theorem success_error {i : Instr} (h : i ≠ .srst) (s : State) : (success i s).error = s.error := by
  cases i with
  | srst => exact absurd rfl h
  | _ => rfl

theorem keepsError_exec {e : ErrorRecord} {i : Instr} {s t : State} (h : s.error = some e)
    (he : exec i s = .next t) : KeepsError e t ∨ t = resetBlock s := by
  obtain ⟨code, -, rfl⟩ | ⟨-, rfl⟩ := exec_cases he
  · exact .inl (keepsError_raiseError h code .command _)
  · by_cases hi : i = .srst
    · subst hi; exact .inr rfl
    · exact .inl (keepsError_of_eq ((success_error hi s).trans h))

theorem streamStep_error (s : State) : (streamStep s).error = s.error := by
  unfold streamStep
  split
  · next m _ => cases m <;> rfl
  · rfl

theorem readReg_error (r : Reg) (s : State) : (readReg r s).error = s.error := by
  obtain ⟨q, v, n, heq⟩ := readReg_frame r s
  rw [heq]

theorem keepsError_pushIn {e : ErrorRecord} {s : State} (h : s.error = some e) (v : Word) :
    KeepsError e (pushIn v s) := by
  unfold pushIn
  split
  · exact keepsError_raiseError h _ _ _
  · exact keepsError_of_eq h

theorem writeStatus_error (w : Word) (s : State) :
    (writeStatus w s).error =
      if w.getLsbD 9 then none
      else if w.getLsbD 10 then s.error.map fun e => { e with multi := false } else s.error := rfl

/-- A write to `STATUS` clears the record exactly by its bit 9 (10_state.md R130). -/
theorem keepsError_writeStatus {e : ErrorRecord} {s : State} {w : Word} (h : s.error = some e)
    (hw : w.getLsbD 9 = false) : KeepsError e (writeStatus w s) := by
  unfold KeepsError
  rw [writeStatus_error, hw, h]
  cases w.getLsbD 10 with
  | true => exact ⟨false, rfl⟩
  | false => exact ⟨e.multi, rfl⟩

theorem keepsError_setReg {e : ErrorRecord} {s : State} {r : Reg} {v : Word} (h : s.error = some e)
    (hclear : r = .status → v.getLsbD 9 = false) : KeepsError e (setReg r v s) := by
  cases r with
  | status => exact keepsError_writeStatus h (hclear rfl)
  | fifoIn => exact keepsError_pushIn h v
  | _ => exact keepsError_of_eq h

theorem keepsError_writeReg {e : ErrorRecord} {s : State} {off : Nat} {v : Word} (h : s.error = some e)
    (hclear : off = 0x00C → v.getLsbD 9 = false) : KeepsError e (writeReg off v s) := by
  unfold writeReg
  split
  · exact keepsError_raiseError h _ _ _
  · exact keepsError_setReg h fun hr => hclear (off_of_status hr)

/-- A host access keeps the record, clears it by a write of 1 to `STATUS.ERR`, or resets the block. -/
theorem keepsError_hostCase {e : ErrorRecord} {a : Access} {s t : State} (h : s.error = some e)
    (hc : HostCase a s t) :
    KeepsError e t ∨ (t.error = none ∧ ∃ w, a = .write 4 0x00C w ∧ w.getLsbD 9 = true) ∨
      t = resetBlock s := by
  cases hc with
  | read off ha ht => exact .inl (keepsError_of_eq (by rw [ht, readReg_error, h]))
  | write off v ha hoff ht =>
    by_cases hclear : off = 0x00C ∧ v.getLsbD 9 = true
    · obtain ⟨rfl, hv⟩ := hclear
      have hwrite : writeReg 0x00C v s = writeStatus v s := by simp [writeReg, regAt, Reg.locked, setReg]
      have hnone : (writeStatus v s).error = none := by rw [writeStatus_error, hv]; rfl
      exact .inr (.inl ⟨by rw [ht, hwrite, hnone], v, ha, hv⟩)
    · exact .inl (ht ▸ keepsError_writeReg h (by simpa using hclear))
  | srst w ha ht => exact .inr (.inr ht)
  | mabt w ha hm ht => exact .inl (ht ▸ keepsError_of_eq h)
  | rejected w ha hb ht => exact .inl (ht ▸ keepsError_raiseError h _ _ _)
  | accepted w ha hb ht => exact .inl (ht ▸ keepsError_of_eq h)

theorem keepsError_engineCase {e : ErrorRecord} {s t : State} (h : s.error = some e) (hc : EngineCase s t) :
    KeepsError e t ∨ t = resetBlock s := by
  cases hc with
  | command w i hp hd he => exact keepsError_exec h he
  | illegal w r hp hd ht => exact .inl (ht ▸ keepsError_raiseError h _ _ _)
  | stream hp ha ht => exact .inl (keepsError_of_eq (by rw [ht, streamStep_error, h]))
  | idle hp ha ht => exact .inl (ht ▸ keepsError_of_eq h)

/-- Settles O35, by the cases of a step: the reset event, a host access, the engine's turn. -/
theorem firstErrorStaysUntilCleared : Obligations.FirstErrorStaysUntilCleared := by
  intro s t e hstep he
  have hpop : ({ s with agenda := s.agenda.tail } : State).error = some e := he
  have herr : t = resetBlock { s with agenda := s.agenda.tail } → t.error = none := fun ht => ht ▸ rfl
  cases step_cases hstep with
  | reset rest hs ht => exact .inr ⟨herr ht, .inr ht⟩
  | host a rest hs hc =>
    obtain hkeep | ⟨hnone, w, rfl, hw⟩ | ht := keepsError_hostCase hpop hc
    · exact .inl hkeep
    · exact .inr ⟨hnone, .inl ⟨w, rest, hs, hw⟩⟩
    · exact .inr ⟨herr ht, .inr ht⟩
  | engine hc =>
    obtain hkeep | ht := keepsError_engineCase hpop hc
    · exact .inl hkeep
    · exact .inr ⟨herr ht, .inr ht⟩

/-! ### `BUSY` and `DONE` -/

theorem readReg_busy (r : Reg) (s : State) : (readReg r s).busy = s.busy := by
  obtain ⟨q, v, n, heq⟩ := readReg_frame r s
  rw [heq]; rfl

theorem readReg_done (r : Reg) (s : State) : (readReg r s).done = s.done := by
  obtain ⟨q, v, n, heq⟩ := readReg_frame r s
  rw [heq]

theorem pushIn_busy (v : Word) (s : State) : (pushIn v s).busy = s.busy := by
  obtain ⟨q, e, heq⟩ := pushIn_frame v s
  rw [heq]; rfl

theorem pushIn_done (v : Word) (s : State) : (pushIn v s).done = s.done := by
  obtain ⟨q, e, heq⟩ := pushIn_frame v s
  rw [heq]

theorem setReg_busy (r : Reg) (v : Word) (s : State) : (setReg r v s).busy = s.busy := by
  cases r with
  | fifoIn => exact pushIn_busy v s
  | _ => rfl

theorem writeReg_busy (off : Nat) (v : Word) (s : State) : (writeReg off v s).busy = s.busy := by
  unfold writeReg
  split
  · rfl
  · exact setReg_busy _ v s

/-- No register write sets `DONE`; the one to `STATUS` can clear it (10_state.md R130). -/
theorem done_of_done_setReg {r : Reg} {v : Word} {s : State} (h : (setReg r v s).done = true) :
    s.done = true := by
  cases r with
  | status => exact (Bool.and_eq_true_iff.mp h).1
  | fifoIn => exact pushIn_done v s ▸ h
  | _ => exact h

theorem done_of_done_writeReg {off : Nat} {v : Word} {s : State} (h : (writeReg off v s).done = true) :
    s.done = true := by
  unfold writeReg at h
  split at h
  · exact h
  · exact done_of_done_setReg h

/-- What executing a command does to the flags: it completes, starts a message or resets the block
(30_encoding.md R311, 10_state.md R125). -/
theorem exec_flags {i : Instr} {s t : State} (he : exec i s = .next t) :
    (t.done = true ∧ t.pending = none ∧ (s.stream.active = false → t.stream.active = false)) ∨
    (t.busy = true ∧ t.done = s.done) ∨ t = resetBlock s := by
  obtain ⟨code, -, rfl⟩ | ⟨-, rfl⟩ := exec_cases he
  · exact .inl ⟨rfl, rfl, id⟩
  · cases i with
    | msge | msgd => exact .inr (.inl ⟨rfl, rfl⟩)
    | srst => exact .inr (.inr rfl)
    | mabt => exact .inl ⟨rfl, rfl, fun _ => rfl⟩
    | _ => exact .inl ⟨rfl, rfl, id⟩

/-- The stream's turn leaves both flags, or finishes the message and sets `DONE` (41_chunker_stream.md R466). -/
theorem streamStep_flags (s : State) :
    ((streamStep s).busy = s.busy ∧ (streamStep s).done = s.done) ∨ streamStep s = finishStep s := by
  unfold streamStep
  split
  · next m _ =>
    cases m with
    | finish => exact .inr rfl
    | pad => exact .inl ⟨by cases hm : s.ctrl.padMode <;> simp [microStep, padStep, State.busy, hm], rfl⟩
    | _ => exact .inl ⟨rfl, rfl⟩
  · exact .inl ⟨rfl, rfl⟩

/-- `DONE` becomes 1 when `BUSY` falls without a reset, and when no command is pending during a message, on no
other occasion: the relation of `DoneMarksCompletion` between the state before a turn and the state after it
(10_state.md R125). -/
structure DoneCoherent (s t : State) : Prop where
  falls : s.busy = true → t.busy = false → t.done = true ∨ t = resetBlock s
  rises : (s.pending.isSome = true → s.stream.active = false) → s.done = false → t.done = true →
    s.busy = true ∧ t.busy = false

/-- A turn that leaves `BUSY` and does not set `DONE`. -/
theorem doneCoherent_of_busy_eq {s t : State} (hbusy : t.busy = s.busy)
    (hdone : t.done = true → s.done = true) : DoneCoherent s t where
  falls h h' := by rw [hbusy, h] at h'; cases h'
  rises _ h h' := by rw [hdone h'] at h; cases h

theorem doneCoherent_resetBlock (s : State) : DoneCoherent s (resetBlock s) where
  falls _ _ := .inr rfl
  rises _ _ h := by cases h

theorem doneCoherent_of_idle {s t : State} (hbusy : s.busy = false) (hdone : t.done = s.done) :
    DoneCoherent s t where
  falls h _ := by rw [hbusy] at h; cases h
  rises _ h h' := by rw [hdone, h] at h'; cases h'

/-- A completion: `DONE` is set and `BUSY` falls. -/
theorem doneCoherent_of_done {s t : State} (hdone : t.done = true)
    (hbusy : (s.pending.isSome = true → s.stream.active = false) → s.busy = true ∧ t.busy = false) :
    DoneCoherent s t where
  falls _ _ := .inl hdone
  rises h _ _ := hbusy h

theorem doneCoherent_hostCase {a : Access} {s t : State} (hc : HostCase a s t) : DoneCoherent s t := by
  cases hc with
  | read off ha ht =>
    exact ht ▸ doneCoherent_of_busy_eq (readReg_busy _ s) (by rw [readReg_done]; exact id)
  | write off v ha hoff ht => exact ht ▸ doneCoherent_of_busy_eq (writeReg_busy off v s) done_of_done_writeReg
  | srst w ha ht => exact ht ▸ doneCoherent_resetBlock s
  | mabt w ha hm ht =>
    have hbusy : s.busy = true := by simp [State.busy, hm]
    exact ht ▸ doneCoherent_of_done rfl fun _ => ⟨hbusy, rfl⟩
  | rejected w ha hb ht => exact ht ▸ doneCoherent_of_busy_eq rfl id
  | accepted w ha hb ht => exact ht ▸ doneCoherent_of_idle hb rfl

theorem doneCoherent_exec {w : Word} {i : Instr} {s t : State} (hp : s.pending = some w)
    (he : exec i s = .next t) : DoneCoherent s t := by
  have hbusy : s.busy = true := by simp [State.busy, hp]
  obtain ⟨hdone, hpend, hactive⟩ | ⟨hstays, hdone⟩ | rfl := exec_flags he
  · refine doneCoherent_of_done hdone fun hex => ⟨hbusy, ?_⟩
    exact busy_eq_false.mpr ⟨hpend, hactive (hex (by simp [hp]))⟩
  · exact doneCoherent_of_busy_eq (hstays.trans hbusy.symm) fun h => hdone ▸ h
  · exact doneCoherent_resetBlock s

theorem doneCoherent_engineCase {s t : State} (hc : EngineCase s t) : DoneCoherent s t := by
  cases hc with
  | command w i hp hd he => exact doneCoherent_exec hp he
  | illegal w r hp hd ht =>
    have hbusy : s.busy = true := by simp [State.busy, hp]
    exact ht ▸ doneCoherent_of_done rfl fun hex => ⟨hbusy, by simpa using hex (by simp [hp])⟩
  | stream hp ha ht =>
    obtain ⟨hbusy, hdone⟩ | hfinish := streamStep_flags s
    · exact ht ▸ doneCoherent_of_busy_eq hbusy fun h => hdone ▸ h
    · rw [ht, hfinish]
      exact doneCoherent_of_done rfl fun _ => ⟨by simp [State.busy, ha], by simp [State.busy, hp]⟩
  | idle hp ha ht => exact ht ▸ doneCoherent_of_busy_eq rfl id

/-- Settles O48, by the cases of a step: the reset event, a host access, the engine's turn. -/
theorem doneMarksCompletion : Obligations.DoneMarksCompletion := by
  intro s t hstep
  have hdone : DoneCoherent { s with agenda := s.agenda.tail } t := by
    cases step_cases hstep with
    | reset rest hs ht => exact ht ▸ doneCoherent_resetBlock _
    | host a rest hs hc => exact doneCoherent_hostCase hc
    | engine hc => exact doneCoherent_engineCase hc
  exact ⟨hdone.falls, fun hinv => hdone.rises hinv.exclusive⟩

end Sys2Proof.Machine
end

section
/-! The register views bit by bit, and the accesses of a register by its name instead of its offset
(10_state.md R100-R148, R160, R161). -/

namespace Sys2Proof.Machine

/-! ### Fields of a register -/

theorem getLsbD_fieldAt {w : Nat} (v : BitVec w) (pos i : Nat) :
    (fieldAt v pos).getLsbD i = (decide (i < 32) && decide (pos ≤ i) && v.getLsbD (i - pos)) := by
  have hpos : (!decide (i < pos)) = decide (pos ≤ i) := by
    rw [← decide_not, decide_eq_decide]; exact Nat.not_lt
  rw [fieldAt, BitVec.getLsbD_shiftLeft, BitVec.getLsbD_setWidth, hpos]
  by_cases h : i < 32
  · have hsub : i - pos < 32 := by omega
    simp [h, hsub]
  · simp [h]

theorem getLsbD_bitAt (b : Bool) (pos i : Nat) :
    (bitAt b pos).getLsbD i = (decide (i < 32) && decide (i = pos) && b) := by
  have hfield : bitAt b pos = fieldAt (BitVec.ofBool b) pos := rfl
  have hpos : (pos ≤ i ∧ i - pos = 0) ↔ i = pos := by omega
  rw [hfield, getLsbD_fieldAt, BitVec.getLsbD_ofBool, Bool.and_assoc, ← Bool.and_assoc (decide (pos ≤ i)),
    ← Bool.decide_and, decide_eq_decide.mpr hpos, Bool.and_assoc]

/-- A field that fits the register is read back at its place. -/
theorem extractLsb'_fieldAt_self {w : Nat} (v : BitVec w) {pos : Nat} (h : pos + w ≤ 32) :
    (fieldAt v pos).extractLsb' pos w = v := by
  apply BitVec.eq_of_getLsbD_eq
  intro i hi
  have hin : pos + i < 32 := by omega
  rw [BitVec.getLsbD_extractLsb', getLsbD_fieldAt, Nat.add_sub_cancel_left]
  simp [hi, hin]

/-- A field is 0 in every range of bits apart from it. -/
theorem extractLsb'_fieldAt_apart {w : Nat} (v : BitVec w) {pos start len : Nat}
    (h : pos + w ≤ start ∨ start + len ≤ pos) : (fieldAt v pos).extractLsb' start len = 0 := by
  apply BitVec.eq_of_getLsbD_eq
  intro i hi
  rw [BitVec.getLsbD_extractLsb', getLsbD_fieldAt]
  by_cases hpos : pos ≤ start + i
  · rw [BitVec.getLsbD_of_ge v _ (by omega)]; simp
  · simp [hpos]

theorem extractLsb'_bitAt_apart (b : Bool) {pos start len : Nat} (h : pos + 1 ≤ start ∨ start + len ≤ pos) :
    (bitAt b pos).extractLsb' start len = 0 :=
  extractLsb'_fieldAt_apart (BitVec.ofBool b) h

/-- A field above all the bits of `x` adds its place value. -/
theorem toNat_or_fieldAt {w : Nat} (v : BitVec w) {x : Word} {pos : Nat} (hx : x.toNat < 2 ^ pos)
    (h : pos + w ≤ 32) : (x ||| fieldAt v pos).toNat = x.toNat + 2 ^ pos * v.toNat := by
  have hv : 2 ^ pos * v.toNat < 2 ^ 32 := calc
    2 ^ pos * v.toNat < 2 ^ pos * 2 ^ w := Nat.mul_lt_mul_of_pos_left v.isLt (Nat.two_pow_pos pos)
    _ = 2 ^ (pos + w) := (Nat.pow_add 2 pos w).symm
    _ ≤ 2 ^ 32 := Nat.pow_le_pow_right (by decide) h
  have hfield : (fieldAt v pos).toNat = v.toNat <<< pos := by
    have hw : v.toNat < 2 ^ 32 := Nat.lt_of_lt_of_le v.isLt (Nat.pow_le_pow_right (by decide) (by omega))
    rw [fieldAt, BitVec.toNat_shiftLeft, BitVec.toNat_setWidth, Nat.mod_eq_of_lt hw, Nat.shiftLeft_eq,
      Nat.mul_comm, Nat.mod_eq_of_lt hv]
  rw [BitVec.toNat_or, hfield, Nat.or_comm, ← Nat.shiftLeft_add_eq_or_of_lt hx, Nat.shiftLeft_eq,
    Nat.add_comm, Nat.mul_comm]

/-- The low `n` bits of a word, zero-extended, are the word under a mask (10_state.md R118). -/
theorem setWidth_extractLsb'_eq_and (v : Word) {n : Nat} (h : n ≤ 32) :
    (v.extractLsb' 0 n).setWidth 32 = v &&& BitVec.ofNat 32 (2 ^ n - 1) := by
  have hmask : (2 ^ n - 1) % 2 ^ 32 = 2 ^ n - 1 := Nat.mod_eq_of_lt
    (Nat.lt_of_lt_of_le (Nat.sub_lt (Nat.two_pow_pos n) Nat.one_pos) (Nat.pow_le_pow_right (by decide) h))
  have hlow : v.toNat % 2 ^ n % 2 ^ 32 = v.toNat % 2 ^ n :=
    Nat.mod_eq_of_lt (Nat.lt_of_le_of_lt (Nat.mod_le _ _) v.isLt)
  apply BitVec.eq_of_toNat_eq
  rw [BitVec.toNat_and, BitVec.toNat_ofNat, hmask, Nat.and_two_pow_sub_one_eq_mod, BitVec.toNat_setWidth,
    BitVec.extractLsb'_toNat, Nat.shiftRight_zero, hlow]

theorem loWord_withLo (v : BitVec 64) (w : Word) : loWord (withLo v w) = w :=
  BitVec.extractLsb'_append_eq_right

theorem hiWord_withHi (v : BitVec 64) (w : Word) : hiWord (withHi v w) = w :=
  BitVec.extractLsb'_append_eq_left

/-! ### Accesses by the register's name -/

/-- A read of register `r` that is exact and has no side effect (10_state.md R161). -/
theorem readsAs_reg {s : State} (r : Reg) {off : Nat} (hb : (s.busy && r.freeWhileBusy) = false)
    (hr : regAt off = r := by rfl) (hoff : off % 4 = 0 ∧ off < 0x200 := by decide)
    (hout : r ≠ .fifoOut := by decide) : ReadsAs s off (regValue r s) := by
  subst hr
  exact readsAs_exact hoff.1 hoff.2 hb hout

/-- A write of register `r` that the busy lock lets through (10_state.md R160). -/
theorem step_write_reg {s : State} (r : Reg) {off : Nat} {v : Word} (hb : (s.busy && r.locked) = false)
    (hr : regAt off = r := by rfl) (hoff : off % 4 = 0 ∧ off < 0x200 ∧ off ≠ 0x010 := by decide) :
    step (s.facingWrite off v) = .next (setReg r v s) := by
  obtain ⟨h4, hlt, hcmd⟩ := hoff
  subst hr
  exact step_write_accepted h4 hlt hcmd hb

theorem regValue_utab (s : State) {i : Nat} (h : i < 64) :
    regValue (.utab i) s = s.utab[i].setWidth 32 := by simp [regValue, h]

theorem readsAs_utab (s : State) {i : Nat} (h : i < 64) :
    ReadsAs s (0x100 + 4 * i) (s.utab[i].setWidth 32) := by
  rw [← regValue_utab s h]
  exact readsAs_reg (.utab i) (Bool.and_false _) (regAt_utab h) (by omega) (by simp)

/-! ### Reads of the read-write and the read-only registers -/

theorem variantBit_eq_decide (x : Variant) : variantBit x = decide (x = .toy) := by cases x <;> rfl

theorem padModeBit_eq_decide (m : PadMode) : padModeBit m = decide (m = .bit) := by cases m <;> rfl

/-- Settles O58: none of these reads is a free draw while busy. -/
theorem readWriteRegistersButLAndRReadExactly : Obligations.ReadWriteRegistersButLAndRReadExactly := by
  intro s
  refine ⟨⟨ctrlWord s.ctrl, readsAs_reg .ctrl (Bool.and_false _), ?_⟩,
    readsAs_reg .keyLo (Bool.and_false _), readsAs_reg .keyHi (Bool.and_false _),
    readsAs_reg .keyLen (Bool.and_false _), readsAs_reg .rkSel (Bool.and_false _),
    readsAs_reg .bvLo (Bool.and_false _), readsAs_reg .bvHi (Bool.and_false _),
    readsAs_reg .bvLen (Bool.and_false _), readsAs_reg .msgLen (Bool.and_false _),
    readsAs_reg .utabLen (Bool.and_false _), fun i h => readsAs_utab s h⟩
  rw [← variantBit_eq_decide, ← padModeBit_eq_decide]
  simp (disch := decide) only [ctrlWord, BitVec.getLsbD_or, getLsbD_bitAt, getLsbD_fieldAt,
    BitVec.extractLsb'_or, extractLsb'_bitAt_apart, extractLsb'_fieldAt_apart, extractLsb'_fieldAt_self]
  simp

theorem toNat_paramWord {p : Params} (h : p.Legal) :
    (paramWord p).toNat = p.inDepth + 2 ^ 8 * p.outDepth + 2 ^ 16 * p.toyR1Shift := by
  obtain ⟨⟨-, hin⟩, ⟨-, hout⟩, hshift⟩ := h
  have h0 : (fieldAt (BitVec.ofNat 8 p.inDepth) 0).toNat = p.inDepth := by
    simp [fieldAt]; omega
  have h8 : (fieldAt (BitVec.ofNat 8 p.inDepth) 0 ||| fieldAt (BitVec.ofNat 8 p.outDepth) 8).toNat =
      p.inDepth + 2 ^ 8 * p.outDepth := by
    rw [toNat_or_fieldAt _ (by omega) (by decide), h0, BitVec.toNat_ofNat, Nat.mod_eq_of_lt (by omega)]
  rw [paramWord, toNat_or_fieldAt _ (by omega) (by decide), h8, BitVec.toNat_ofNat,
    Nat.mod_eq_of_lt (by omega)]

/-- Settles O39: the reads at any time, then the reads that are exact only while idle. -/
theorem readOnlyRegisterValues : Obligations.ReadOnlyRegisterValues := by
  intro s
  refine ⟨readsAs_reg .id (Bool.and_false _),
    fun hp => ⟨paramWord s.params, readsAs_reg .param (Bool.and_false _), toNat_paramWord hp⟩,
    readsAs_reg .errInfo (Bool.and_false _), readsAs_reg .msgPad (Bool.and_false _),
    readsAs_reg .msgBlocks (Bool.and_false _), fun hidle => ?_⟩
  have hexact (r : Reg) : (s.busy && r.freeWhileBusy) = false := by rw [hidle]; rfl
  have hlo : ReadsAs s 0x028 (s.selectedKey.extractLsb' 0 32) := readsAs_reg .rkLo (hexact _)
  have hhi : ReadsAs s 0x02C ((s.selectedKey.extractLsb' 32 16).setWidth 32) :=
    readsAs_reg .rkHi (hexact _)
  refine ⟨fun k hk hpos _ hlt => ?_, fun hnone => ?_, readsAs_reg .resLo (hexact _),
    readsAs_reg .resHi (hexact _), readsAs_reg .resLen (hexact _)⟩
  · rw [← selectedKey_of_lt hlt (by omega)]
    exact ⟨hlo, hhi⟩
  · rw [selectedKey_of_none hnone] at hlo hhi
    exact ⟨hlo, hhi⟩

theorem isEmpty_eq_decide (q : List Byte) : q.isEmpty = decide (q = []) := by cases q <;> rfl

/-- Settles O40, flag by flag from the word that `STATUS` shows. -/
theorem statusReadShowsTheFlags : Obligations.StatusReadShowsTheFlags := by
  intro s
  refine ⟨s.statusWord, readsAs_reg .status (Bool.and_false _), ?_⟩
  have hstall : s.outStall = decide (s.stream.active = true ∧ 8 ≤ s.stream.obuf.length ∧
      s.outFifo.length = s.params.outDepth) := by
    simp [State.outStall, State.outFull, Bool.and_assoc, Bool.beq_eq_decide_eq]
  have hwait : s.inWait = decide (s.stream.active = true ∧ s.stream.obuf.length < 8 ∧
      s.stream.ibuf.length < blockWidth s.ctrl.variant ∧ 0 < s.stream.bytesLeft ∧ s.inFifo = []) := by
    simp [State.inWait, Bool.and_assoc, isEmpty_eq_decide]
  rw [← hstall, ← hwait]
  simp (disch := decide) only [State.statusWord, BitVec.getLsbD_or, getLsbD_bitAt, getLsbD_fieldAt,
    BitVec.extractLsb'_or, extractLsb'_bitAt_apart, extractLsb'_fieldAt_apart, extractLsb'_fieldAt_self]
  simp [State.busy, State.errFlag]

/-- Settles O41: the levels fit their fields, since a depth is at most 255. -/
theorem fifoStatShowsTheLevels : Obligations.FifoStatShowsTheLevels := by
  intro s h
  refine ⟨s.fifoStatWord, readsAs_reg .fifoStat (Bool.and_false _), ?_⟩
  obtain ⟨⟨-, hin⟩, ⟨-, hout⟩, -⟩ := h.params
  have hinLevel : s.inFifo.length % 256 = s.inFifo.length := Nat.mod_eq_of_lt (by have := h.inLevel; omega)
  have houtLevel : s.outFifo.length % 256 = s.outFifo.length :=
    Nat.mod_eq_of_lt (by have := h.outLevel; omega)
  simp (disch := decide) only [State.fifoStatWord, BitVec.getLsbD_or, getLsbD_bitAt, getLsbD_fieldAt,
    BitVec.extractLsb'_or, extractLsb'_bitAt_apart, extractLsb'_fieldAt_apart, extractLsb'_fieldAt_self]
  simp [State.inFull, State.outFull, hinLevel, houtLevel, isEmpty_eq_decide, Bool.beq_eq_decide_eq]

/-- The seven registers whose read is a free draw while busy (10_state.md R161). -/
theorem freeWhileBusy_of_mem {off : Nat} (h : off ∈ [0x030, 0x034, 0x044, 0x048, 0x04C, 0x028, 0x02C]) :
    off % 4 = 0 ∧ off < 0x200 ∧ (regAt off).freeWhileBusy = true :=
  (by decide : ∀ off ∈ [0x030, 0x034, 0x044, 0x048, 0x04C, 0x028, 0x02C],
    off % 4 = 0 ∧ off < 0x200 ∧ (regAt off).freeWhileBusy = true) off h

/-- `FIFO_OUT` is the register of index 21 only (10_state.md R100). -/
theorem regAt_ne_fifoOut {i : Nat} (h : i < 128) (hi : i ≠ 21) : regAt (4 * i) ≠ .fifoOut :=
  (by decide : ∀ i < 128, i ≠ 21 → regAt (4 * i) ≠ .fifoOut) i h hi

/-- Settles O45: the free draws, the exact reads, and the frame of a read of either kind. -/
theorem readsWhileBusyAreFree : Obligations.ReadsWhileBusyAreFree := by
  refine ⟨fun s off hbusy hoff => ?_, fun s hidle => ?_, fun s i hlt hout => ?_⟩
  · obtain ⟨h4, hlt, hfree⟩ := freeWhileBusy_of_mem hoff
    exact step_read_free h4 hlt hbusy hfree
  · obtain ⟨-, -, -, -, -, hviews⟩ := readOnlyRegisterValues s
    obtain ⟨hkey, hnone, hresLo, hresHi, hresLen⟩ := hviews hidle
    have hexact (r : Reg) : (s.busy && r.freeWhileBusy) = false := by rw [hidle]; rfl
    exact ⟨readsAs_reg .halfL (hexact _), readsAs_reg .halfR (hexact _), hresLo, hresHi, hresLen,
      fun k hk hsel => hkey (k + 1) hsel (by omega) (by omega) hk, hnone⟩
  · have h4 : 4 * i % 4 = 0 := Nat.mul_mod_right 4 i
    have hoff : 4 * i < 0x200 := by omega
    cases hfree : s.busy && (regAt (4 * i)).freeWhileBusy with
    | true =>
      obtain ⟨hbusy, hfree⟩ := Bool.and_eq_true_iff.mp hfree
      exact ⟨_, _, step_read_free h4 hoff hbusy hfree⟩
    | false => exact ⟨_, s.freeCount, readsAs_exact h4 hoff hfree (regAt_ne_fifoOut hlt hout)⟩

end Sys2Proof.Machine
end

section
/-! What a host write does: the busy lock, `KEY_VALID`, the values read back, and the clearing write to `STATUS`
(10_state.md R118, R119, R130, R135, R160). -/

namespace Sys2Proof.Machine

/-! ### The busy lock -/

theorem raiseError_eq_recorded (c : ErrorCode) (src : ErrorSource) (info : Word) (s : State) :
    raiseError c src info s = { s with error := recorded s.error c src info } := by
  unfold raiseError recorded
  cases s.error <;> rfl

/-- The busy-locked offsets of 10_state.md R160, `UTAB` apart. -/
theorem locked_of_mem {off : Nat}
    (h : off ∈ [0x008, 0x018, 0x01C, 0x020, 0x030, 0x034, 0x038, 0x03C, 0x040, 0x05C, 0x068]) :
    off % 4 = 0 ∧ off < 0x200 ∧ off ≠ 0x010 ∧ (regAt off).locked = true :=
  (by decide : ∀ off ∈ [0x008, 0x018, 0x01C, 0x020, 0x030, 0x034, 0x038, 0x03C, 0x040, 0x05C, 0x068],
    off % 4 = 0 ∧ off < 0x200 ∧ off ≠ 0x010 ∧ (regAt off).locked = true) off h

theorem locked_utab {i : Nat} (h : i < 64) : (regAt (0x100 + 4 * i)).locked = true := by
  rw [regAt_utab h]; rfl

/-- Settles O36: a locked write is rejected, and the four registers that are never locked are written. -/
theorem busyLock : Obligations.BusyLock := by
  refine ⟨fun s off v hbusy hoff => ?_, fun s v => ⟨step_write_reg .status (Bool.and_false _),
    step_write_reg .rkSel (Bool.and_false _), step_write_reg .fifoIn (Bool.and_false _),
    step_facingCmd s v⟩⟩
  obtain ⟨h4, hlt, hcmd, hlocked⟩ :
      off % 4 = 0 ∧ off < 0x200 ∧ off ≠ 0x010 ∧ (regAt off).locked = true := by
    obtain hmem | ⟨i, hi, rfl⟩ := hoff
    · exact locked_of_mem hmem
    · exact ⟨by omega, by omega, by omega, locked_utab hi⟩
  rw [step_write_locked h4 hlt hcmd hbusy hlocked, raiseError_eq_recorded, offsetInfo,
    Nat.mod_eq_of_lt (by omega)]

/-! ### `KEY_VALID` -/

theorem variantBit_ctrlOfWord (v : Word) : variantBit (ctrlOfWord v).variant = v.getLsbD 0 := by
  show variantBit (if v.getLsbD 0 then .toy else .full) = _
  cases v.getLsbD 0 <;> rfl

theorem padModeBit_ctrlOfWord (v : Word) : padModeBit (ctrlOfWord v).padMode = v.getLsbD 1 := by
  show padModeBit (if v.getLsbD 1 then .bit else .byte) = _
  cases v.getLsbD 1 <;> rfl

theorem variant_ctrlOfWord (v : Word) (x : Variant) :
    (ctrlOfWord v).variant = x ↔ v.getLsbD 0 = decide (x = .toy) := by
  rw [← variantBit_ctrlOfWord, ← variantBit_eq_decide]
  cases (ctrlOfWord v).variant <;> cases x <;> decide

/-- Settles O37: the three key registers clear the flag, `CTRL` keeps it exactly when it keeps both fields. -/
theorem keyWritesClearKeyValid : Obligations.KeyWritesClearKeyValid := by
  intro s v hidle
  have hfree (r : Reg) : (s.busy && r.locked) = false := by rw [hidle]; rfl
  refine ⟨fun off hoff => ?_, _, step_write_reg .ctrl (hfree _), ?_⟩
  · simp only [List.mem_cons, List.not_mem_nil, or_false] at hoff
    obtain rfl | rfl | rfl := hoff
    · exact ⟨_, step_write_reg .keyLo (hfree _), rfl⟩
    · exact ⟨_, step_write_reg .keyHi (hfree _), rfl⟩
    · exact ⟨_, step_write_reg .keyLen (hfree _), rfl⟩
  · have hkeyValid : (setReg .ctrl v s).keyValid = (s.keyValid && decide
        ((ctrlOfWord v).variant = s.ctrl.variant ∧ (ctrlOfWord v).nrounds = s.ctrl.nrounds)) := rfl
    rw [hkeyValid, Bool.and_eq_true_iff, decide_eq_true_iff, variant_ctrlOfWord]
    rfl

/-! ### Values read back -/

/-- A write of `v` at `off` followed by a read there returns `x`. -/
def ReadsBack (s : State) (off : Nat) (v x : Word) : Prop :=
  ∃ t u, step (s.facingWrite off v) = .next t ∧ step (t.facingRead off) = .next u ∧ u.readData = x

/-- While idle the read returns the register's value after the write (10_state.md R160, R161). -/
theorem readsBack_reg {s : State} (r : Reg) {off : Nat} {v x : Word} (hidle : s.busy = false)
    (hx : regValue r (setReg r v s) = x) (hr : regAt off = r := by rfl)
    (hoff : off % 4 = 0 ∧ off < 0x200 ∧ off ≠ 0x010 := by decide) (hout : r ≠ .fifoOut := by decide) :
    ReadsBack s off v x := by
  have hidle' : (setReg r v s).busy = false := (setReg_busy r v s).trans hidle
  exact ⟨setReg r v s, { setReg r v s with readData := regValue r (setReg r v s) },
    step_write_reg r (by rw [hidle]; rfl) hr hoff,
    readsAs_reg r (by rw [hidle']; rfl) hr ⟨hoff.1, hoff.2.1⟩ hout, hx⟩

/-- `CTRL` stores the bits of its fields and reads its reserved bits as 0 (10_state.md R118). -/
theorem ctrlWord_ctrlOfWord (v : Word) : ctrlWord (ctrlOfWord v) = v &&& 0x00FF1F1F := by
  rw [ctrlWord, variantBit_ctrlOfWord, padModeBit_ctrlOfWord]
  apply BitVec.eq_of_getLsbD_eq
  intro i hi
  simp only [ctrlOfWord, BitVec.getLsbD_or, BitVec.getLsbD_and, getLsbD_bitAt, getLsbD_fieldAt,
    BitVec.getLsbD_extractLsb']
  interval_cases i <;> simp

theorem regValue_setReg_utab (s : State) (v : Word) {i : Nat} (h : i < 64) :
    regValue (.utab i) (setReg (.utab i) v s) = v &&& 0x3F := by
  have hentry : (setReg (.utab i) v s).utab[i] = v.extractLsb' 0 6 := by simp [setReg]
  rw [regValue_utab _ h, hentry]
  exact setWidth_extractLsb'_eq_and v (by decide)

/-- Settles O38: each register's value after its write is the written word, masked or clamped. -/
theorem writtenValuesReadBack : Obligations.WrittenValuesReadBack := by
  intro s v hidle
  refine ⟨fun off hoff => ?_, fun off mask hoff => ?_, fun off hoff hv => ?_⟩
  · change ReadsBack s off v v
    simp only [List.mem_cons, List.not_mem_nil, or_false] at hoff
    obtain rfl | rfl | rfl | rfl | rfl | rfl | rfl := hoff
    · exact readsBack_reg .keyLo hidle (loWord_withLo s.key v)
    · exact readsBack_reg .keyHi hidle (hiWord_withHi s.key v)
    · exact readsBack_reg .halfL hidle rfl
    · exact readsBack_reg .halfR hidle rfl
    · exact readsBack_reg .bvLo hidle (loWord_withLo s.bv v)
    · exact readsBack_reg .bvHi hidle (hiWord_withHi s.bv v)
    · exact readsBack_reg .msgLen hidle rfl
  · change ReadsBack s off v (v &&& BitVec.ofNat 32 mask)
    simp only [List.mem_cons, List.not_mem_nil, or_false, Prod.mk.injEq] at hoff
    obtain (⟨rfl, rfl⟩ | ⟨rfl, rfl⟩) | ⟨i, hi, rfl, rfl⟩ := hoff
    · exact readsBack_reg .ctrl hidle (ctrlWord_ctrlOfWord v)
    · exact readsBack_reg .rkSel hidle (setWidth_extractLsb'_eq_and v (by decide))
    · exact readsBack_reg (.utab i) hidle (regValue_setReg_utab s v hi) (regAt_utab hi) (by omega) (by simp)
  · have hback : ReadsBack s off v ((clampLen v).setWidth 32) := by
      simp only [List.mem_cons, List.not_mem_nil, or_false] at hoff
      obtain rfl | rfl | rfl := hoff
      · exact readsBack_reg .keyLen hidle rfl
      · exact readsBack_reg .bvLen hidle rfl
      · exact readsBack_reg .utabLen hidle rfl
    obtain ⟨t, u, hwrite, hread, hdata⟩ := hback
    refine ⟨t, u, hwrite, hread, ?_⟩
    rw [hdata, BitVec.toNat_setWidth_of_le (by decide), toNat_clampLen hv]

/-! ### The clearing write to `STATUS` -/

/-- Settles O34, by the bits 9 and 10 that the write has. -/
theorem statusWriteClears : Obligations.StatusWriteClears := by
  intro s w
  refine ⟨writeStatus w s, step_write_reg .status (Bool.and_false _), rfl, rfl, ?_⟩
  simp only [State.errFlag, State.errMulti, State.errCode, State.errSrc, State.errInfo, writeStatus_error]
  cases w.getLsbD 9 with
  | true => simp
  | false =>
    cases w.getLsbD 10 with
    | true => cases s.error <;> simp
    | false => simp

end Sys2Proof.Machine
end

section
/-! The reset state: the values of 10_state.md R170, and the invariants. -/

namespace Sys2Proof.Machine

theorem roundKeyWord_resetWith (p : Params) (i : Nat) : (State.resetWith p).roundKeyWord i = 0 := by
  have hentry (j : Nat) : ((Vector.replicate 16 (0 : BitVec 48))[j]?).getD 0 = 0 := by
    by_cases h : j < 16 <;> simp [h]
  unfold State.roundKeyWord
  split
  · rfl
  · exact hentry _

/-- Both FIFOs are empty and, a depth being at least 8, not full (10_state.md R143, R170). -/
theorem fifoStatWord_resetWith {p : Params} (h : p.Legal) :
    (State.resetWith p).fifoStatWord = 0x000A0000 := by
  obtain ⟨⟨hin, -⟩, ⟨hout, -⟩, -⟩ := h
  have hinFull : (State.resetWith p).inFull = false := by
    simp [State.inFull, State.resetWith]; omega
  have houtFull : (State.resetWith p).outFull = false := by
    simp [State.outFull, State.resetWith]; omega
  have hinEmpty : (State.resetWith p).inFifo = [] := rfl
  have houtEmpty : (State.resetWith p).outFifo = [] := rfl
  rw [State.fifoStatWord, hinFull, houtFull, hinEmpty, houtEmpty]
  decide

/-- Settles O10: the views are computed, the other values stand in `State.resetWith`. -/
theorem resetValues : Obligations.ResetValues := by
  intro p h
  have hutab : ∀ u ∈ (State.resetWith p).utab.toList, u = 0 := by
    intro u hu
    simpa [State.resetWith] using hu
  have hstatus : (State.resetWith p).statusWord = 0 := (by decide : State.reset.statusWord = 0)
  have hctrl : ctrlWord (State.resetWith p).ctrl = 0x00001000 :=
    (by decide : ctrlWord Ctrl.reset = 0x00001000)
  exact ⟨rfl, rfl, hstatus, hctrl, rfl, rfl, rfl, rfl, roundKeyWord_resetWith p, rfl, rfl, rfl, rfl, rfl, rfl,
    fifoStatWord_resetWith h, rfl, rfl, rfl, rfl, rfl, rfl, hutab, rfl, rfl, rfl, rfl⟩

/-- No message is active after reset and the stream is empty (10_state.md R153, R170). -/
theorem streamInv_resetWith (p : Params) : StreamInv (State.resetWith p) where
  exclusive _ := rfl
  idle _ := ⟨rfl, rfl, rfl, rfl⟩
  ibufBound := Nat.zero_le _
  obufBound := Nat.zero_le _
  bytesBound := Nat.two_pow_pos 32
  padBound := Nat.zero_le _
  bitPad h := by cases h
  aligned h := by cases h
  whole h := by cases h

/-- Settles O56, from the four invariants' own lemmas about the reset state. -/
theorem resetSatisfiesInvariants : Obligations.ResetSatisfiesInvariants := fun p h =>
  ⟨fieldsInRange_resetWith h, keyCoherent_of_invalid rfl, streamInv_resetWith p, blockCount_of_idle rfl⟩

end Sys2Proof.Machine
end

section
/-! The host's accesses one by one: the two FIFO ports, the accesses without effect, and the contract of the
window (20_memory.md R200, R203, R204, R214, R220, R221). -/

namespace Sys2Proof.Machine

/-! ### The FIFO ports -/

theorem pushIn_of_room {s : State} (h : s.inFifo.length ≠ s.params.inDepth) (v : Word) :
    pushIn v s = { s with inFifo := s.inFifo ++ [v.extractLsb' 0 8] } := if_neg h

theorem pushIn_of_full {s : State} (h : s.inFifo.length = s.params.inDepth) (v : Word) :
    pushIn v s = { s with error := recorded s.error .fifoOverflow .access 0x050 } := by
  rw [← raiseError_eq_recorded]
  exact if_pos h

/-- Settles O42: `FIFO_IN` is never busy-locked, so the write is `pushIn` whatever `BUSY` is. -/
theorem fifoPush : Obligations.FifoPush := by
  intro s w
  have hpush : step (s.facingWrite 0x050 w) = .next (pushIn w s) :=
    step_write_reg .fifoIn (Bool.and_false _)
  exact ⟨fun h => by rw [hpush, pushIn_of_room h], fun h => by rw [hpush, pushIn_of_full h]⟩

/-- `VALID` stands in bit 8, above the byte, so it adds its place value (20_memory.md R221). -/
theorem fifoOutWord_cons (b : Byte) (rest : List Byte) :
    fifoOutWord (b :: rest) = BitVec.ofNat 32 (0x100 + b.toNat) := by
  have hb : b.toNat < 2 ^ 8 := b.isLt
  have hor : 0x100 + b.toNat = 0x100 ||| b.toNat := Nat.shiftLeft_add_eq_or_of_lt hb 1
  rw [hor, BitVec.ofNat_or, BitVec.ofNat_toNat]
  rfl

/-- Settles O43: `FIFO_OUT` is read exactly whatever `BUSY` is, and the read drops the byte it shows. -/
theorem fifoPop : Obligations.FifoPop := by
  intro s
  have hpop : step (s.facingRead 0x054) =
      .next { s with outFifo := s.outFifo.drop 1, readData := fifoOutWord s.outFifo } :=
    step_read_exact (by decide) (by decide) (Bool.and_false _)
  refine ⟨fun h => ?_, fun b rest h => ?_⟩
  · have hempty : s.outFifo.drop 1 = s.outFifo := by rw [h]; rfl
    rw [hpop, hempty, h]
    rfl
  · rw [hpop, h, fifoOutWord_cons]
    rfl

/-! ### Accesses without effect -/

/-- The registers whose write is ignored: the read-only ones and the reserved offsets (20_memory.md R203,
R204). -/
def Reg.ignoresWrites : Reg → Bool
  | .id | .param | .errInfo | .rkLo | .rkHi | .resLo | .resHi | .resLen | .fifoOut | .fifoStat | .msgPad
  | .msgBlocks | .reserved => true
  | _ => false

theorem setReg_of_ignoresWrites {r : Reg} (h : r.ignoresWrites = true) (v : Word) (s : State) :
    r.locked = false ∧ setReg r v s = s := by
  cases r with
  | ctrl | status | cmd | keyLo | keyHi | keyLen | rkSel | halfL | halfR | bvLo | bvHi | bvLen | fifoIn
  | msgLen | utabLen | utab => cases h
  | _ => exact ⟨rfl, rfl⟩

theorem step_write_ignored {off : Nat} (h4 : off % 4 = 0) (hlt : off < 0x200)
    (h : (regAt off).ignoresWrites = true) (s : State) (v : Word) :
    step (s.facingWrite off v) = .next s := by
  obtain ⟨hlocked, hset⟩ := setReg_of_ignoresWrites h v s
  have hcmd : off ≠ 0x010 := by rintro rfl; cases h
  rw [step_write_accepted h4 hlt hcmd (by rw [hlocked, Bool.and_false]), hset]

/-- The offsets of the read-only registers (10_state.md R100). -/
theorem ignoresWrites_of_mem {off : Nat}
    (h : off ∈ [0x000, 0x004, 0x014, 0x028, 0x02C, 0x044, 0x048, 0x04C, 0x054, 0x058, 0x060, 0x064]) :
    off % 4 = 0 ∧ off < 0x200 ∧ (regAt off).ignoresWrites = true :=
  (by decide :
    ∀ off ∈ [0x000, 0x004, 0x014, 0x028, 0x02C, 0x044, 0x048, 0x04C, 0x054, 0x058, 0x060, 0x064],
      off % 4 = 0 ∧ off < 0x200 ∧ (regAt off).ignoresWrites = true) off h

/-- Settles O44: reserved offsets, then the read-only and the write-only registers. -/
theorem ignoredAccesses : Obligations.IgnoredAccesses := by
  intro s v
  refine ⟨fun i hlo hhi => ?_, fun off hoff => ?_, fun off hoff => ?_⟩
  · have hreg : regAt (4 * i) = .reserved := regAt_reserved hlo hhi
    have h4 : 4 * i % 4 = 0 := Nat.mul_mod_right 4 i
    exact ⟨readsAs_reg .reserved (Bool.and_false _) hreg ⟨h4, by omega⟩,
      step_write_ignored h4 (by omega) (by rw [hreg]; rfl) s v⟩
  · obtain ⟨h4, hlt, hignored⟩ := ignoresWrites_of_mem hoff
    exact step_write_ignored h4 hlt hignored s v
  · simp only [List.mem_cons, List.not_mem_nil, or_false] at hoff
    obtain rfl | rfl := hoff
    · exact readsAs_reg .cmd (Bool.and_false _)
    · exact readsAs_reg .fifoIn (Bool.and_false _)

/-! ### The contract -/

theorem inContract_iff {width off : Nat} :
    inContract width off = true ↔ width = 4 ∧ off % 4 = 0 ∧ off < 0x200 := by
  simp [inContract, and_assoc]

/-- A write to `CMD` is always performed, if only to reject the command (30_encoding.md R310). -/
theorem submit_next (w : Word) (s : State) : ∃ t, submit w s = .next t := by
  unfold submit
  split
  · exact exec_next _ s
  · split <;> exact ⟨_, rfl⟩

/-- Settles O46: an access is performed exactly when `inContract` holds of it. -/
theorem onlyContractAccesses : Obligations.OnlyContractAccesses := by
  intro s width off v
  refine ⟨?_, fun hout => ?_⟩
  · rintro ⟨rfl, h4, hlt⟩
    refine ⟨⟨_, step_facingRead h4 hlt⟩, ?_⟩
    by_cases hcmd : off = 0x010
    · subst hcmd
      obtain ⟨t, ht⟩ := submit_next v s
      exact ⟨t, (step_facingCmd s v).trans ht⟩
    · exact ⟨_, step_facingWrite h4 hlt hcmd⟩
  · have hrefused : ¬ inContract width off = true := mt inContract_iff.mp hout
    exact ⟨if_neg hrefused, if_neg hrefused⟩

end Sys2Proof.Machine
end

section
/-! The whole next state of an accepted write to a busy-locked register (20_memory.md R207). -/

namespace Sys2Proof.Machine

/-- `KEY_VALID` survives a write to `CTRL` that keeps both `VARIANT` and `NROUNDS` (10_state.md R119). -/
theorem writeCtrl_keyValid (v : Word) (s : State) :
    (writeCtrl v s).keyValid = (s.keyValid && decide (v.getLsbD 0 = decide (s.ctrl.variant = .toy)) &&
      decide (v.extractLsb' 8 5 = s.ctrl.nrounds)) := by
  have hkeyValid : (writeCtrl v s).keyValid = (s.keyValid && decide
      ((ctrlOfWord v).variant = s.ctrl.variant ∧ (ctrlOfWord v).nrounds = s.ctrl.nrounds)) := rfl
  rw [hkeyValid, Bool.and_assoc, ← Bool.decide_and]
  simp only [variant_ctrlOfWord]
  rfl

theorem writeCtrl_eq (v : Word) (s : State) :
    writeCtrl v s = { s with
      ctrl := ctrlOfWord v
      keyValid := s.keyValid && decide (v.getLsbD 0 = decide (s.ctrl.variant = .toy)) &&
        decide (v.extractLsb' 8 5 = s.ctrl.nrounds) } := by
  rw [← writeCtrl_keyValid]
  rfl

/-- Settles O59: each write is `setReg` of its register, a length is stored clamped, and a write to `UTAB`
replaces one entry. -/
theorem acceptedWritesSetOnlyTheirRegister : Obligations.AcceptedWritesSetOnlyTheirRegister := by
  intro s v hidle writes stored
  have hfree (r : Reg) : (s.busy && r.locked) = false := by rw [hidle]; rfl
  have hstored : stored (clampLen v) := ⟨clampLen_le v, toNat_clampLen⟩
  have hctrl : writes 0x008 (writeCtrl v s) := step_write_reg .ctrl (hfree _)
  rw [writeCtrl_eq] at hctrl
  refine ⟨hctrl, step_write_reg .keyLo (hfree _), step_write_reg .keyHi (hfree _),
    ⟨_, hstored, step_write_reg .keyLen (hfree _)⟩, step_write_reg .halfL (hfree _),
    step_write_reg .halfR (hfree _), step_write_reg .bvLo (hfree _), step_write_reg .bvHi (hfree _),
    ⟨_, hstored, step_write_reg .bvLen (hfree _)⟩, step_write_reg .msgLen (hfree _),
    ⟨_, hstored, step_write_reg .utabLen (hfree _)⟩, fun i hi => ?_⟩
  refine ⟨s.utab.setIfInBounds i (v.extractLsb' 0 6),
    step_write_reg (.utab i) (hfree _) (regAt_utab hi) (by omega), ?_, fun j hj hne => ?_⟩
  · exact Vector.getElem_setIfInBounds_self hi
  · exact Vector.getElem_setIfInBounds_ne hj hne.symm

end Sys2Proof.Machine
end

section
/-! What the engine's turn leaves of the host's registers, and what it does to the two FIFOs (20_memory.md R223,
R232). -/

namespace Sys2Proof.Machine

/-- A micro-step, or a hold, changes the stream, the FIFOs, `MSG_BLOCKS` and `DONE` at most
(41_chunker_stream.md R460). -/
theorem streamStep_frame (s : State) :
    ∃ q inq outq n d, streamStep s =
      { s with stream := q, inFifo := inq, outFifo := outq, msgBlocks := n, done := d } := by
  unfold streamStep
  split
  · next m _ => cases m <;> exact ⟨_, _, _, _, _, rfl⟩
  · exact ⟨_, _, _, _, _, rfl⟩

/-! ### The host's registers -/

/-- The registers that only the host writes: those of 20_memory.md R232, `BV` apart (log 8). -/
def State.hostRegisters (s : State) :
    Ctrl × BitVec 64 × BitVec 7 × Word × Vector (BitVec 6) 64 × BitVec 7 × BitVec 5 :=
  (s.ctrl, s.key, s.keyLen, s.msgLen, s.utab, s.utabLen, s.rkSel)

theorem exec_hostRegisters {i : Instr} {s t : State} (h : i ≠ .srst) (he : exec i s = .next t) :
    t.hostRegisters = s.hostRegisters := by
  obtain ⟨code, -, rfl⟩ | ⟨-, rfl⟩ := exec_cases he
  · rfl
  · cases i with
    | srst => exact absurd rfl h
    | _ => rfl

theorem engineCase_hostRegisters {s t : State}
    (h : ∀ w, s.pending = some w → decode w ≠ .command .srst) (hc : EngineCase s t) :
    t.hostRegisters = s.hostRegisters := by
  cases hc with
  | command w i hp hd he =>
    have hi : i ≠ .srst := by rintro rfl; exact h w hp hd
    exact exec_hostRegisters hi he
  | illegal w r hp hd ht => exact ht ▸ rfl
  | stream hp ha ht =>
    obtain ⟨q, inq, outq, n, d, heq⟩ := streamStep_frame s
    rw [ht, heq]; rfl
  | idle hp ha ht => exact ht ▸ rfl

/-! ### The parameters -/

theorem exec_params {i : Instr} {s t : State} (he : exec i s = .next t) : t.params = s.params := by
  obtain ⟨code, -, rfl⟩ | ⟨-, rfl⟩ := exec_cases he
  · rfl
  · cases i <;> rfl

theorem engineCase_params {s t : State} (hc : EngineCase s t) : t.params = s.params := by
  cases hc with
  | command w i hp hd he => exact exec_params he
  | illegal w r hp hd ht => exact ht ▸ rfl
  | stream hp ha ht =>
    obtain ⟨q, inq, outq, n, d, heq⟩ := streamStep_frame s
    rw [ht, heq]
  | idle hp ha ht => exact ht ▸ rfl

theorem readReg_params (r : Reg) (s : State) : (readReg r s).params = s.params := by
  obtain ⟨q, v, n, heq⟩ := readReg_frame r s
  rw [heq]

theorem setReg_params (r : Reg) (v : Word) (s : State) : (setReg r v s).params = s.params := by
  cases r with
  | fifoIn =>
    obtain ⟨q, e, heq⟩ := pushIn_frame v s
    rw [setReg, heq]
  | _ => rfl

theorem writeReg_params (off : Nat) (v : Word) (s : State) : (writeReg off v s).params = s.params := by
  unfold writeReg
  split
  · rfl
  · exact setReg_params _ v s

theorem hostCase_params {a : Access} {s t : State} (hc : HostCase a s t) : t.params = s.params := by
  cases hc with
  | read off ha ht => exact ht ▸ readReg_params _ s
  | write off v ha hoff ht => exact ht ▸ writeReg_params off v s
  | srst w ha ht => exact ht ▸ rfl
  | mabt w ha hm ht => exact ht ▸ rfl
  | rejected w ha hb ht => exact ht ▸ rfl
  | accepted w ha hb ht => exact ht ▸ rfl

/-- No step changes the parameters (00_scope.md R7). -/
theorem step_params {s t : State} (h : step s = .next t) : t.params = s.params := by
  have hpop : ({ s with agenda := s.agenda.tail } : State).params = s.params := rfl
  cases step_cases h with
  | reset rest hs ht => exact ht ▸ rfl
  | host a rest hs hc => exact (hostCase_params hc).trans hpop
  | engine hc => exact (engineCase_params hc).trans hpop

/-- Settles O52, by the cases of the engine's turn and of a step. -/
theorem engineLeavesHostRegisters : Obligations.EngineLeavesHostRegisters := by
  refine ⟨fun s t hstep hsrst => ?_, fun s t => step_params⟩
  rw [step_facing_engine] at hstep
  have hsame : t.hostRegisters = s.hostRegisters :=
    engineCase_hostRegisters hsrst (engineStep_cases hstep)
  simpa only [State.hostRegisters, Prod.mk.injEq] using hsame

/-! ### The FIFOs -/

/-- Among the commands only `UNPK` consumes from the input FIFO, and `MABT` and `SRST` empty it (20_memory.md
R223). -/
theorem exec_inFifo {i : Instr} {s t : State} (he : exec i s = .next t) (hne : t.inFifo ≠ s.inFifo) :
    (∃ n, i = .unpk n ∧ t.inFifo = s.inFifo.drop n) ∨ ((i = .mabt ∨ i = .srst) ∧ t.inFifo = []) := by
  obtain ⟨code, -, rfl⟩ | ⟨-, rfl⟩ := exec_cases he
  · exact absurd rfl hne
  · cases i with
    | unpk n => exact .inl ⟨n, rfl, rfl⟩
    | mabt => exact .inr ⟨.inl rfl, rfl⟩
    | srst => exact .inr ⟨.inr rfl, rfl⟩
    | _ => exact absurd rfl hne

/-- Among the commands only `PACK` produces into the output FIFO, and `MABT` and `SRST` empty it (20_memory.md
R223). -/
theorem exec_outFifo {i : Instr} {s t : State} (he : exec i s = .next t) (hne : t.outFifo ≠ s.outFifo) :
    (∃ bs, i = .pack ∧ t.outFifo = s.outFifo ++ bs) ∨ ((i = .mabt ∨ i = .srst) ∧ t.outFifo = []) := by
  obtain ⟨code, -, rfl⟩ | ⟨-, rfl⟩ := exec_cases he
  · exact absurd rfl hne
  · cases i with
    | pack => exact .inl ⟨_, rfl, rfl⟩
    | mabt => exact .inr ⟨.inl rfl, rfl⟩
    | srst => exact .inr ⟨.inr rfl, rfl⟩
    | _ => exact absurd rfl hne

/-- Among the micro-steps only the fill step consumes from the input FIFO (41_chunker_stream.md R461). -/
theorem streamStep_inFifo {s : State} (hne : (streamStep s).inFifo ≠ s.inFifo) :
    s.nextMicroStep = some .fill ∧ (streamStep s).inFifo = s.inFifo.drop 1 := by
  unfold streamStep at hne ⊢
  cases hm : s.nextMicroStep with
  | none => rw [hm] at hne; exact absurd rfl hne
  | some m =>
    rw [hm] at hne
    cases m with
    | fill => exact ⟨rfl, rfl⟩
    | _ => exact absurd rfl hne

/-- Among the micro-steps only the drain step produces into the output FIFO (41_chunker_stream.md R464). -/
theorem streamStep_outFifo {s : State} (hne : (streamStep s).outFifo ≠ s.outFifo) :
    s.nextMicroStep = some .drain ∧ ∃ b, (streamStep s).outFifo = s.outFifo ++ [b] := by
  unfold streamStep at hne ⊢
  cases hm : s.nextMicroStep with
  | none => rw [hm] at hne; exact absurd rfl hne
  | some m =>
    rw [hm] at hne
    cases m with
    | drain => exact ⟨rfl, _, rfl⟩
    | _ => exact absurd rfl hne

/-- Settles O50, by the cases of the engine's turn: an illegal word and an idle turn leave both FIFOs. -/
theorem fifoTraffic : Obligations.FifoTraffic := by
  intro s t hstep
  rw [step_facing_engine] at hstep
  cases engineStep_cases hstep with
  | command w i hp hd he =>
    refine ⟨fun hne => ?_, fun hne => ?_⟩
    · obtain ⟨n, rfl, hdrop⟩ | ⟨rfl | rfl, hempty⟩ := exec_inFifo he hne
      · exact .inr (.inl ⟨w, n, hp, hd, hdrop⟩)
      · exact .inr (.inr ⟨w, hp, .inl hd, hempty⟩)
      · exact .inr (.inr ⟨w, hp, .inr hd, hempty⟩)
    · obtain ⟨bs, rfl, happend⟩ | ⟨rfl | rfl, hempty⟩ := exec_outFifo he hne
      · exact .inr (.inl ⟨w, bs, hp, hd, happend⟩)
      · exact .inr (.inr ⟨w, hp, .inl hd, hempty⟩)
      · exact .inr (.inr ⟨w, hp, .inr hd, hempty⟩)
  | illegal w r hp hd ht => subst ht; exact ⟨absurd rfl, absurd rfl⟩
  | stream hp ha ht =>
    subst ht
    refine ⟨fun hne => ?_, fun hne => ?_⟩
    · obtain ⟨hfill, hdrop⟩ := streamStep_inFifo hne
      exact .inl ⟨hp, hfill, hdrop⟩
    · obtain ⟨hdrain, happend⟩ := streamStep_outFifo hne
      exact .inl ⟨hp, hdrain, happend⟩
  | idle hp ha ht => subst ht; exact ⟨absurd rfl, absurd rfl⟩

end Sys2Proof.Machine
end

section
/-! Command words: the decoder and the encoder are inverse to each other on the well-formed commands, and which
words are illegal (30_encoding.md R300-R303, R330). -/

namespace Sys2Proof

/-! ### Decoding and encoding -/

/-- A command is well formed when its argument fits `ARG` (30_encoding.md R301). -/
theorem wellFormed_iff {i : Instr} : WellFormed i ↔ argOf i < 256 := by
  cases i <;> simp [WellFormed, wellFormed, argFits, argOf]

theorem decodeOpcode_fields (i : Instr) : decodeOpcode (opcodeOf i) (argOf i) = .command i := by
  cases i <;> rfl

/-- The three fields of a word decide which command it is (30_encoding.md R300-R303). -/
theorem decode_eq_command_iff {w : Word} {i : Instr} :
    decode w = .command i ↔ rsvField w = 0 ∧ opcField w = opcodeOf i ∧ argField w = argOf i := by
  refine ⟨fields_of_decode, fun ⟨hrsv, hopc, harg⟩ => ?_⟩
  rw [decode, if_pos hrsv, hopc, harg, decodeOpcode_fields]

/-- Settles O1: the encoding's fields are the command's, and its argument fits. -/
theorem decodeOfEncode : Obligations.DecodeOfEncode := fun _ hi =>
  have ⟨hopc, harg, hrsv⟩ := Laws.EncodedFields.of_arg_lt wellFormed_iff.mp hi
  decode_eq_command_iff.mpr ⟨hrsv, hopc, harg⟩

/-- A word is put together from its three fields (30_encoding.md R300). -/
theorem toNat_eq_fields (w : Word) : w.toNat = rsvField w * 65536 + argField w * 256 + opcField w := by
  rw [rsvField_eq, argField_eq, opcField_eq]
  omega

/-- Settles O2: a decoding word has the fields of its command's encoding. -/
theorem encodeOfDecode : Obligations.EncodeOfDecode := by
  intro w i hd
  obtain ⟨hrsv, hopc, harg⟩ := fields_of_decode hd
  have hfit : argOf i < 256 := by rw [← harg, argField_eq]; omega
  refine ⟨BitVec.eq_of_toNat_eq ?_, wellFormed_iff.mpr hfit⟩
  rw [toNat_encode, toNat_eq_fields w, hrsv, hopc, harg]
  omega

theorem decode_eq_command_iff_encode {w : Word} {i : Instr} (hi : WellFormed i) :
    decode w = .command i ↔ w = encode i :=
  ⟨fun hd => (encodeOfDecode w i hd).1.symm, fun hw => hw ▸ decodeOfEncode i hi⟩

/-- Settles O4, by evaluating the decoder on each word. -/
theorem specWordsDecode : Obligations.SpecWordsDecode := by
  unfold Obligations.SpecWordsDecode
  decide

/-! ### Illegal words -/

/-- The 15 assigned opcodes (30_encoding.md R303). -/
def assignedOpcodes : List Nat :=
  [0x00, 0x01, 0x10, 0x20, 0x21, 0x22, 0x23, 0x24, 0x30, 0x31, 0x40, 0x41, 0x42, 0x50, 0x51]

/-- The opcodes of the commands that take an argument (30_encoding.md R303). -/
def argumentOpcodes : List Nat := [0x20, 0x24, 0x30, 0x31, 0x50]

theorem withoutArg_illegal_iff {i : Instr} {a : Nat} : (∃ r, withoutArg i a = .illegal r) ↔ a ≠ 0 := by
  unfold withoutArg
  split <;> simp [*]

theorem decodeOpcode_illegal_iff {op a : Nat} : (∃ r, decodeOpcode op a = .illegal r) ↔
    op ∉ assignedOpcodes ∨ (op ∉ argumentOpcodes ∧ a ≠ 0) := by
  unfold decodeOpcode
  split
  case h_16 =>
    refine ⟨fun _ => .inl ?_, fun _ => ⟨_, rfl⟩⟩
    simp_all [assignedOpcodes]
  all_goals simp [assignedOpcodes, argumentOpcodes, withoutArg_illegal_iff]

/-- Which words are illegal, in terms of their fields (30_encoding.md R302, R303, R330). -/
theorem decode_illegal_iff {w : Word} : (∃ r, decode w = .illegal r) ↔
    rsvField w ≠ 0 ∨ opcField w ∉ assignedOpcodes ∨ (opcField w ∉ argumentOpcodes ∧ argField w ≠ 0) := by
  rw [← decodeOpcode_illegal_iff]
  unfold decode
  split <;> simp [*]

theorem opcField_mem_iff {w : Word} {l : List Byte} {m : List Nat} (h : l.map BitVec.toNat = m) :
    opcField w ∈ m ↔ w.extractLsb' 0 8 ∈ l :=
  h ▸ List.mem_map_of_injective BitVec.toNat_injective

/-- Settles O3: the field conditions of `decode_illegal_iff`, read off the raw bits. -/
theorem illegalWordsExactly : Obligations.IllegalWordsExactly := by
  refine ⟨fun w => decode_illegal_iff.trans ?_, by decide⟩
  have hne {n : Nat} (b : BitVec n) : b.toNat ≠ 0 ↔ b ≠ 0 := by simp [BitVec.toNat_ne]
  refine or_congr (hne (w.extractLsb' 16 16))
    (or_congr (not_congr ?_) (and_congr (not_congr ?_) (hne (w.extractLsb' 8 8))))
  · exact opcField_mem_iff (by rfl)
  · exact opcField_mem_iff (by rfl)

end Sys2Proof
end

section
/-! The submission of a command word, and the step that runs it (30_encoding.md R310, R311). -/

namespace Sys2Proof.Machine

/-! ### Submission -/

theorem actsAtOnce_srst (s : State) : actsAtOnce 0x01 s = some .srst := rfl

theorem actsAtOnce_mabt {s : State} (h : s.stream.active = true) : actsAtOnce 0x42 s = some .mabt := by
  unfold actsAtOnce
  rw [show decode 0x42 = .command .mabt by decide]
  exact if_pos h

/-- Nothing but `SRST`, and `MABT` during a message, acts at once (30_encoding.md R310). -/
theorem actsAtOnce_eq_none {w : Word} {s : State} (hsrst : w ≠ 0x01)
    (hmabt : ¬(w = 0x42 ∧ s.stream.active = true)) : actsAtOnce w s = none := by
  cases h : actsAtOnce w s with
  | none => rfl
  | some i =>
    obtain ⟨hd, rfl | ⟨rfl, ha⟩⟩ := actsAtOnce_cases h
    · exact absurd ((decode_eq_command_iff_encode rfl).mp hd) hsrst
    · exact absurd ⟨(decode_eq_command_iff_encode rfl).mp hd, ha⟩ hmabt

theorem submit_of_actsAtOnce {w : Word} {s : State} {i : Instr} (h : actsAtOnce w s = some i) :
    submit w s = exec i s := by simp [submit, h]

theorem submit_of_busy {w : Word} {s : State} (h : actsAtOnce w s = none) (hb : s.busy = true) :
    submit w s = .next (raiseError .sequence .command w s) := by simp [submit, h, hb]

theorem submit_of_idle {w : Word} {s : State} (h : actsAtOnce w s = none) (hb : s.busy = false) :
    submit w s = .next { s with pending := some w } := by simp [submit, h, hb]

/-- Settles O6, one branch of 30_encoding.md R310 after the other. -/
theorem commandAcceptance : Obligations.CommandAcceptance := by
  intro s w
  have hne {k : Word} : w.toNat ≠ k.toNat → w ≠ k := mt (congrArg BitVec.toNat)
  rw [step_facingCmd]
  refine ⟨fun hw => ?_, fun _ _ hw ha => ?_, fun hsrst hb hmabt => ?_, fun hsrst hb => ?_⟩
  · obtain rfl : w = 0x01 := BitVec.eq_of_toNat_eq hw
    exact submit_of_actsAtOnce (actsAtOnce_srst s)
  · obtain rfl : w = 0x42 := BitVec.eq_of_toNat_eq hw
    exact submit_of_actsAtOnce (actsAtOnce_mabt ha)
  · have hnone : actsAtOnce w s = none :=
      actsAtOnce_eq_none (hne hsrst) fun ⟨hw, ha⟩ => hmabt ⟨congrArg BitVec.toNat hw, ha⟩
    rw [submit_of_busy hnone hb, raiseError_eq_recorded]
  · have hidle := (busy_eq_false.mp hb).2
    have hnone : actsAtOnce w s = none :=
      actsAtOnce_eq_none (hne hsrst) fun ⟨_, ha⟩ => by rw [hidle] at ha; cases ha
    exact submit_of_idle hnone hb

/-! ### The step that runs a command -/

theorem engineStep_of_pending {s : State} {w : Word} (h : s.pending = some w) :
    engineStep s = runWord w s := by simp [engineStep, h]

theorem runWord_of_command {w : Word} {i : Instr} (h : decode w = .command i) (s : State) :
    runWord w s = exec i s := by simp [runWord, h]

theorem runWord_of_illegal {w : Word} {r : DecodeReject} (h : decode w = .illegal r) (s : State) :
    runWord w s = .next (failCommand .illegalCommand w s) := by simp [runWord, h]

theorem commandWord_toNat (w : Word) : commandWord 32 w.toNat = w := by
  rw [commandWord, Nat.mod_eq_of_lt w.isLt, BitVec.ofNat_toNat, BitVec.setWidth_eq]

/-- A placed word that acts at once is the host's write on the state itself (log 2). -/
theorem step_placeWord_of_actsAtOnce {w : Word} {s : State} {i : Instr} (h : actsAtOnce w s = some i) :
    step (placeWord w s) = exec i s := by
  rw [placeWord, if_pos (by simp [h])]
  exact (step_facingCmd s w).trans (submit_of_actsAtOnce h)

/-- Any other placed word is run from `PENDING` (log 2). -/
theorem step_placeWord_of_not_actsAtOnce {w : Word} {s : State} (h : actsAtOnce w s = none) :
    step (placeWord w s) = runWord w { s with pending := some w } := by
  rw [placeWord, if_neg (by simp [h])]
  cases s.agenda with
  | nil => rfl
  | cons t rest => rfl

/-- Settles O5: the engine's turn runs the pending word, and a placed word is pending or is written to `CMD`. -/
theorem stepRunsTheDecodedCommand : Obligations.StepRunsTheDecodedCommand := by
  refine ⟨fun s w i hp hd => ?_, fun s w i hd => ?_⟩
  · have hrun : engineStep s = exec i s := (engineStep_of_pending hp).trans (runWord_of_command hd s)
    exact ⟨hrun, fun ha => (step_of_no_agenda ha).trans hrun⟩
  · rw [State.withFetchWord, commandWord_toNat]
    cases h : actsAtOnce w s with
    | none =>
      refine ⟨{ s with pending := some w }, ?_, rfl, .inr rfl⟩
      rw [step_placeWord_of_not_actsAtOnce h, runWord_of_command hd]
    | some j =>
      obtain rfl : i = j := Decoded.command.inj (hd.symm.trans (actsAtOnce_cases h).1)
      exact ⟨s, step_placeWord_of_actsAtOnce h, rfl, .inl rfl⟩

end Sys2Proof.Machine
end

section
/-! The checks of a pending word: the table of 30_encoding.md R320 is the decoder's check and then the command's
own checks in their order. -/

namespace Sys2Proof.Machine

/-! ### The commands' checks in the form of the table -/

theorem not_inRange (a b n : Nat) : (!(decide (a ≤ n) && decide (n ≤ b))) = decide ¬(a ≤ n ∧ n ≤ b) := by
  rw [← Bool.decide_and, decide_not]

theorem roundCheck_eq (i : Nat) (s : State) :
    roundCheck i s = (decide ¬(1 ≤ i ∧ i ≤ s.ctrl.nrounds.toNat), .badRoundIndex) := by
  rw [roundCheck, not_inRange, State.rounds]

theorem checksOf_kexp (s : State) : checksOf .kexp s =
    [(decide ¬(1 ≤ s.ctrl.nrounds.toNat ∧ s.ctrl.nrounds.toNat ≤ 16), .config),
     (decide (s.keyLen.toNat < rawKeyWidth s.ctrl.variant), .keyLength)] := by
  rw [checksOf, not_inRange, State.rounds]

theorem checksOf_unpk (n : Nat) (s : State) : checksOf (.unpk n) s =
    [(decide ¬(1 ≤ n ∧ n ≤ 8), .badArgument), (decide (s.inFifo.length < n), .fifoUnderflow)] := by
  rw [checksOf, not_inRange]

/-- The fixed tables are those with ids 0 to 9 (30_encoding.md R304). -/
theorem fixedTable_eq_none {t : Nat} (h : 9 < t) : fixedTable t = none := by
  unfold fixedTable
  split <;> first | rfl | omega

/-- The user table is the one table whose id is not below 10 (30_encoding.md R304). -/
theorem isNone_permTable (s : State) (t : Nat) : (s.permTable t).isNone = decide ¬(t ≤ 9 ∨ t = 15) := by
  unfold State.permTable
  by_cases h9 : t ≤ 9
  · interval_cases t <;> rfl
  · by_cases h15 : t = 15
    · simp [h15]
    · simp [h9, h15, fixedTable_eq_none (Nat.lt_of_not_le h9)]

/-- The input widths of the fixed tables (42_permutation.md R501-R510). -/
theorem permShapeOk_fixed (s : State) {t : Nat} (h : t ≤ 9) :
    s.permShapeOk t = decide (s.bvLen.toNat = [64, 64, 32, 32, 64, 56, 6, 6, 9, 9].getD t 0) := by
  interval_cases t <;> rfl

theorem foldl_max_lt_iff (l : List Nat) (a n : Nat) : l.foldl max a < n ↔ a < n ∧ ∀ u ∈ l, u < n := by
  induction l generalizing a with
  | nil => simp
  | cons u l ih => simp [ih, and_assoc]

/-- The user table fits when every entry is below the operand's length (42_permutation.md R515). -/
theorem permShapeOk_user (s : State) :
    s.permShapeOk 15 = decide (∀ u ∈ s.utab.toList.take s.utabLen.toNat, u.toNat < s.bvLen.toNat) := by
  have h : (s.userTable = [] ∨ s.userTable.foldl max 0 < s.bvLen.toNat) ↔
      ∀ u ∈ s.userTable, u < s.bvLen.toNat := by
    rw [foldl_max_lt_iff]
    cases s.userTable with
    | nil => simp
    | cons u l => simp; omega
  have hentries : (∀ u ∈ s.userTable, u < s.bvLen.toNat) ↔
      ∀ u ∈ s.utab.toList.take s.utabLen.toNat, u.toNat < s.bvLen.toNat := List.forall_mem_map
  rw [State.permShapeOk, if_pos rfl, ← Bool.decide_or]
  exact decide_eq_decide.mpr (h.trans hentries)

/-- The padding amount of BIT mode in closed form (41_chunker_stream.md R453). -/
theorem padAmount_bit (v : Variant) (n : Nat) : padAmount v .bit n = paddingUnits v .bit n := by
  cases v <;> simp only [padAmount, paddingUnits, blockWidth, halfWidth] <;> omega

/-- Check 8 of 30_encoding.md R320 for a message. -/
theorem padCheck_eq (s : State) : padCheck s = (decide (s.ctrl.padMode = .bit ∧
    paddingUnits s.ctrl.variant .bit s.msgLen.toNat % 8 ≠ 0), .length) := by
  unfold padCheck State.padFor
  cases s.ctrl.padMode <;> simp [padAmount_bit]

/-! ### The first failing check -/

/-- An illegal word fails the first check (30_encoding.md R320). -/
theorem firstFailingCheck_of_illegal {w : Word} {r : DecodeReject} (h : decode w = .illegal r) (s : State) :
    firstFailingCheck w s = some .illegalCommand := by
  have hfields := decode_illegal_iff.mp ⟨r, h⟩
  rw [opcField_eq, argField_eq, rsvField_eq] at hfields
  refine if_pos ?_
  obtain hrsv | hopc | harg := hfields
  · exact .inr (.inl (by omega))
  · exact .inl hopc
  · exact .inr (.inr harg)

/-- A word that decodes to a command passes the first check; the others are the command's own, in the same order
(30_encoding.md R320). -/
theorem firstFailingCheck_of_command {w : Word} {i : Instr} (h : decode w = .command i) (s : State) :
    firstFailingCheck w s = firstFailure (checksOf i s) := by
  obtain ⟨hrsv, hopc, harg⟩ := fields_of_decode h
  rw [opcField_eq] at hopc
  rw [argField_eq] at harg
  have hlt : ¬2 ^ 16 ≤ w.toNat := by rw [rsvField_eq] at hrsv; omega
  simp only [firstFailingCheck, hopc, harg, hlt]
  cases i with
  | perm t =>
    simp only [checksOf, isNone_permTable]
    by_cases h9 : t ≤ 9
    · have h15 : t ≠ 15 := by omega
      simp [opcodeOf, argOf, firstFailure, permShapeOk_fixed s h9, h9, h15]
    · by_cases h15 : t = 15
      · subst h15
        simp [opcodeOf, argOf, firstFailure, permShapeOk_user]
      · simp [opcodeOf, argOf, firstFailure, h9, h15]
  | kexp => simp [opcodeOf, argOf, firstFailure, checksOf_kexp, imp_iff_not_or]
  | unpk n => simp [opcodeOf, argOf, firstFailure, checksOf_unpk, imp_iff_not_or]
  | round i | ffn i =>
    simp [opcodeOf, argOf, firstFailure, checksOf, keyCheck, roundCheck_eq, imp_iff_not_or]
  | _ => simp [opcodeOf, argOf, firstFailure, checksOf, keyCheck, padCheck_eq]

/-- A command whose word passes every check of the table has its effect (30_encoding.md R311). -/
theorem exec_of_firstFailingCheck_none {w : Word} {i : Instr} {s : State} (hd : decode w = .command i)
    (h : firstFailingCheck w s = none) : exec i s = .next (success i s) :=
  exec_of_passes (firstFailure_none.mp (firstFailingCheck_of_command hd s ▸ h))

/-- A pending word with a failing check is a failed command, illegal or not (30_encoding.md R320). -/
theorem runWord_of_firstFailingCheck {w : Word} {s : State} {c : ErrorCode}
    (h : firstFailingCheck w s = some c) : runWord w s = .next (failCommand c w s) := by
  cases hd : decode w with
  | illegal r =>
    rw [firstFailingCheck_of_illegal hd s] at h
    obtain rfl := Option.some.inj h
    exact runWord_of_illegal hd s
  | command i =>
    rw [firstFailingCheck_of_command hd s] at h
    rw [runWord_of_command hd s, exec_of_fails h, (encodeOfDecode w i hd).1]

theorem success_pending (i : Instr) (s : State) : (success i s).pending = none := by
  cases i <;> rfl

/-- Settles O7: the table's first failing check is the one the execution step finds. -/
theorem pendingWordReportsFirstFailingCheck : Obligations.PendingWordReportsFirstFailingCheck := by
  intro s w hp
  rw [step_facing_engine, engineStep_of_pending hp]
  refine ⟨fun c hc => ?_, fun hnone => ?_⟩
  · rw [runWord_of_firstFailingCheck hc, failCommand, raiseError_eq_recorded]
    rfl
  · cases hd : decode w with
    | illegal r => rw [firstFailingCheck_of_illegal hd s] at hnone; cases hnone
    | command i =>
      have he : exec i s = .next (success i s) := exec_of_firstFailingCheck_none hd hnone
      exact ⟨i, success i s, rfl, he, (runWord_of_command hd s).trans he, success_pending i s,
        fun hi => success_error hi s⟩

end Sys2Proof.Machine
end

section
/-! The byte codec and its two commands: `from_bits` undoes `to_bits` and back, and `UNPK` and `PACK` move bytes
between the FIFOs and `BV` (40_codec.md). -/

namespace Sys2Proof.Machine

/-! ### The bits of a byte string -/

/-- Bit `b` of byte `j` is element `8j + b` (40_codec.md R401). -/
theorem getD_fromBits (x : Bits) {j b : Nat} (hj : j < x.length / 8) (hb : b < 8) :
    ((fromBits x).getD j 0).getLsbD b = x.getD (8 * j + b) false := by
  have hbyte : (fromBits x).getD j 0 = regOf 8 ((x.drop (8 * j)).take 8) := by
    simp [fromBits, List.getD, hj]
  rw [hbyte, getLsbD_regOf, getD_drop_take x (8 * j) hb, decide_eq_true hb, Bool.true_and]

/-- Byte strings of one length with the same bits are equal. -/
theorem bytes_ext {m k : List Byte} (hl : m.length = k.length)
    (h : ∀ j < m.length, ∀ b < 8, (m.getD j 0).getLsbD b = (k.getD j 0).getLsbD b) : m = k := by
  apply List.ext_getElem hl
  intro j hm hk
  apply BitVec.eq_of_getLsbD_eq
  intro b hb
  rw [← List.getD_eq_getElem m 0 hm, ← List.getD_eq_getElem k 0 hk]
  exact h j hm b hb

theorem fromBits_toBits (m : List Byte) : fromBits (toBits m) = m := by
  have hl : (fromBits (toBits m)).length = m.length := by
    rw [length_fromBits, length_toBits]; omega
  apply bytes_ext hl
  intro j hj b hb
  rw [getD_fromBits _ (length_fromBits _ ▸ hj) hb, getD_toBits m j hb]

theorem toBits_fromBits {x : Bits} (hx : x.length % 8 = 0) : toBits (fromBits x) = x := by
  have hl : (toBits (fromBits x)).length = x.length := by
    rw [length_toBits, length_fromBits]; omega
  apply bits_ext hl
  intro i hi
  have hb : i % 8 < 8 := Nat.mod_lt i (by decide)
  have hj : i / 8 < x.length / 8 := by omega
  rw [← Nat.div_add_mod i 8, getD_toBits _ _ hb, getD_fromBits x hj hb]

/-- The bytes of a register's low bits (20_memory.md R211). -/
theorem fromBits_seqOf {w : Nat} (n : Nat) (v : BitVec w) :
    fromBits (seqOf n v) = (List.range (n / 8)).map fun j => v.extractLsb' (8 * j) 8 := by
  have hl : (fromBits (seqOf n v)).length = n / 8 := by rw [length_fromBits, length_seqOf]
  apply bytes_ext (by simp [hl])
  intro j hj b hb
  rw [hl] at hj
  have hn : 8 * j + b < n := by omega
  rw [getD_fromBits _ (by rwa [length_seqOf]) hb, getD_seqOf]
  simp [List.getD, hj, hb, hn]

/-! ### The commands -/

theorem exec_unpk {s : State} {n : Nat} (h1 : 1 ≤ n) (h8 : n ≤ 8) (hin : n ≤ s.inFifo.length) :
    exec (.unpk n) s = .next (complete (unpkEffect n s)) :=
  exec_of_passes (by simp [checksOf, h1, h8, hin])

theorem exec_pack {s : State} (hbytes : s.bvLen.toNat % 8 = 0)
    (hroom : s.bvLen.toNat / 8 ≤ s.params.outDepth - s.outFifo.length) :
    exec .pack s = .next (complete (packEffect s)) :=
  exec_of_passes (by simp [checksOf, hbytes, hroom])

/-- `PACK` pushes the byte string that its operand is the bits of (40_codec.md R415). -/
theorem exec_pack_of_toBits {s : State} {m : List Byte} (hseq : s.bvSeq = toBits m)
    (hroom : m.length ≤ s.params.outDepth - s.outFifo.length) :
    exec .pack s = .next (complete { s with outFifo := s.outFifo ++ m }) := by
  have hlen : s.bvLen.toNat = 8 * m.length := by
    rw [← length_toBits, ← hseq, State.bvSeq, length_seqOf]
  rw [exec_pack (by omega) (by omega), packEffect, hseq, fromBits_toBits]

/-- The operand that `UNPK` leaves is the bits of the bytes it took (40_codec.md R410). -/
theorem bvSeq_unpkEffect {s : State} {n : Nat} (h8 : n ≤ 8) (hin : n ≤ s.inFifo.length) :
    (unpkEffect n s).bvSeq = toBits (s.inFifo.take n) := by
  have hbvLen : (unpkEffect n s).bvLen.toNat = 8 * n := Nat.mod_eq_of_lt (by omega)
  have hl : (toBits (s.inFifo.take n)).length = 8 * n := by
    rw [length_toBits, List.length_take_of_le hin]
  rw [State.bvSeq, hbvLen]
  exact seqOf_regOf _ hl (by omega)

/-- Byte `j` of the operand that `UNPK` leaves; no byte was taken past the count (40_codec.md R410). -/
theorem extractLsb'_unpkEffect_bv (s : State) (n : Nat) {j : Nat} (hj : j < 8) :
    (unpkEffect n s).bv.extractLsb' (8 * j) 8 = if j < n then s.inFifo.getD j 0 else 0 := by
  have htaken : (unpkEffect n s).bv.extractLsb' (8 * j) 8 = (s.inFifo.take n).getD j 0 :=
    extractLsb'_regOf_toBits _ hj
  rw [htaken, List.getD, List.getElem?_take]
  split
  · rfl
  · rfl

/-! ### The obligations -/

/-- Settles O20: the checks pass, and the bytes of `BV` are the bytes taken from the FIFO. -/
theorem unpkMovesBytesToBv : Obligations.UnpkMovesBytesToBv := by
  intro s n h1 h8 hin
  exact ⟨_, exec_unpk h1 h8 hin, fun j hj => extractLsb'_unpkEffect_bv s n hj⟩

/-- Settles O21: the checks pass, and the bytes pushed are the bytes of `BV`'s low bits. -/
theorem packPushesBvBytes : Obligations.PackPushesBvBytes := by
  intro s hbytes hroom
  rw [exec_pack hbytes hroom, ← fromBits_seqOf]
  rfl

/-- Settles O22: the operand that `UNPK` makes with `to_bits` is one that `PACK` takes back to its bytes. -/
theorem codecRoundTrip : Obligations.CodecRoundTrip := by
  refine ⟨fromBits_toBits, fun x hx => toBits_fromBits hx, fun s n h1 h8 hin hroom => ?_⟩
  have hseq : (complete (unpkEffect n s)).bvSeq = toBits (s.inFifo.take n) := bvSeq_unpkEffect h8 hin
  have hfits : (s.inFifo.take n).length ≤ s.params.outDepth - s.outFifo.length := by
    rwa [List.length_take_of_le hin]
  refine ⟨(unpkEffect n s).bv, ?_⟩
  simp only [execAll, exec_unpk h1 h8 hin, exec_pack_of_toBits hseq hfits]
  rfl

end Sys2Proof.Machine
end

section
/-! The padding amount and the commands that start or abort a message (41_chunker_stream.md R453-R456, R470). -/

namespace Sys2Proof.Machine

/-! ### The padding amount -/

/-- The closed form of BYTE mode aligns the message: to 8 bytes in Full, to 3 bytes in Toy (R453). -/
theorem paddingUnits_byte_aligns (v : Variant) (n : Nat) :
    (8 * (n + paddingUnits v .byte n)) % blockWidth v = 0 := by
  cases v <;> simp only [paddingUnits, blockWidth, halfWidth] <;> omega

/-- No smaller number of filler bytes aligns the message (R453). -/
theorem paddingUnits_byte_le {v : Variant} {n k : Nat} (h : (8 * (n + k)) % blockWidth v = 0) :
    paddingUnits v .byte n ≤ k := by
  cases v <;> simp only [paddingUnits, blockWidth, halfWidth] at h ⊢ <;> omega

theorem paddingUnits_byte_lt (v : Variant) (n : Nat) : paddingUnits v .byte n < blockWidth v := by
  cases v <;> simp only [paddingUnits, blockWidth, halfWidth] <;> omega

/-- The search of BYTE mode finds the closed form: it aligns, it is below `B`, and nothing smaller aligns. -/
theorem padAmount_byte (v : Variant) (n : Nat) : padAmount v .byte n = paddingUnits v .byte n := by
  have hfind : (List.range (blockWidth v)).find? (fun k => (8 * (n + k)) % blockWidth v == 0) =
      some (paddingUnits v .byte n) := by
    refine List.find?_range_eq_some.mpr
      ⟨by simp [paddingUnits_byte_aligns], by simp [paddingUnits_byte_lt], fun k hk => ?_⟩
    have hne : (8 * (n + k)) % blockWidth v ≠ 0 := fun h => absurd (paddingUnits_byte_le h) (by omega)
    simp [hne]
  rw [padAmount, hfind, Option.getD_some]

theorem padAmount_eq (v : Variant) (m : PadMode) (n : Nat) : padAmount v m n = paddingUnits v m n := by
  cases m with
  | byte => exact padAmount_byte v n
  | bit => exact padAmount_bit v n

theorem paddingUnits_le (v : Variant) (m : PadMode) (n : Nat) : paddingUnits v m n ≤ 63 :=
  padAmount_eq v m n ▸ padAmount_le v m n

/-- An aligned message gets no filler (R454). -/
theorem paddingUnits_of_aligned {v : Variant} {n : Nat} (m : PadMode) (h : (8 * n) % blockWidth v = 0) :
    paddingUnits v m n = 0 := by
  cases v <;> cases m <;> simp only [paddingUnits, blockWidth, halfWidth] at h ⊢ <;> omega

/-- BIT filler ends within a byte for Toy messages of `3k + 1` bytes only (R453). -/
theorem paddingUnits_bit_mod (v : Variant) (n : Nat) :
    paddingUnits v .bit n % 8 ≠ 0 ↔ v = .toy ∧ n % 3 = 1 := by
  cases v with
  | full => simp [paddingUnits]
  | toy => simp [paddingUnits]; omega

/-- Settles O23, from the closed forms. -/
theorem paddingAmountClosedForms : Obligations.PaddingAmountClosedForms := by
  refine ⟨padAmount_eq, fun v n => ?_, fun v n => rfl, fun v m n h => ?_, fun v m n => ?_⟩
  · rw [padAmount_byte]
    exact ⟨paddingUnits_byte_aligns v n, fun k => paddingUnits_byte_le⟩
  · rw [padAmount_eq, paddingUnits_of_aligned m h]
  · rw [padAmount_eq]
    constructor
    · rintro ⟨rfl, h⟩
      obtain ⟨hv, hn⟩ := (paddingUnits_bit_mod v n).mp h
      exact ⟨hv, rfl, hn⟩
    · rintro ⟨hv, rfl, hn⟩
      exact ⟨rfl, (paddingUnits_bit_mod v n).mpr ⟨hv, hn⟩⟩

/-! ### Starting a message -/

/-- The command that starts a message in the given direction. -/
def messageCommand (dec : Bool) : Instr := if dec then .msgd else .msge

theorem success_messageCommand (dec : Bool) (s : State) :
    success (messageCommand dec) s = startMessage dec s := by cases dec <;> rfl

theorem padFor_eq (s : State) : s.padFor = paddingUnits s.ctrl.variant s.ctrl.padMode s.msgLen.toNat :=
  padAmount_eq _ _ _

/-- Both commands make the key check and the padding check (30_encoding.md R320). -/
theorem checksOf_messageCommand (dec : Bool) (s : State) :
    checksOf (messageCommand dec) s = [keyCheck s, padCheck s] := by cases dec <;> rfl

/-- The padding check passes when the padding ends on a byte. -/
theorem padCheck_of_fits {s : State} (h : paddingFits s.ctrl.variant s.ctrl.padMode s.msgLen.toNat) :
    (padCheck s).1 = false := by
  rw [padCheck_eq, decide_eq_false_iff_not, paddingUnits_bit_mod]
  exact fun ⟨hm, hv, hn⟩ => h ⟨hv, hm, hn⟩

theorem exec_messageCommand {s : State} (dec : Bool) (hkey : s.keyValid = true)
    (hfits : paddingFits s.ctrl.variant s.ctrl.padMode s.msgLen.toNat) :
    exec (messageCommand dec) s = .next (startMessage dec s) := by
  rw [← success_messageCommand]
  exact exec_of_passes (by simp [checksOf_messageCommand, keyCheck, hkey, padCheck_of_fits hfits])

/-- Settles O24: the checks pass, and the state is the one `startMessage` gives with the closed form. -/
theorem messageStart : Obligations.MessageStart := by
  intro s dec hkey hfits pad
  have hpad : s.padFor = pad := padFor_eq s
  have hle : pad ≤ 63 := paddingUnits_le _ _ _
  refine ⟨_, rfl, ?_, rfl, ?_⟩
  · rw [← hpad]
    exact exec_messageCommand dec hkey hfits
  · exact Nat.mod_eq_of_lt (by omega)

/-! ### Aborting a message -/

/-- Settles O25: `MABT` has no checks, acts at once during a message and runs from `PENDING` otherwise. -/
theorem abortEmptiesTheStream : Obligations.AbortEmptiesTheStream := by
  intro s
  refine ⟨_, rfl, rfl, rfl, fun ha => ?_, fun hp => ?_⟩
  · rw [step_facingCmd]
    exact submit_of_actsAtOnce (actsAtOnce_mabt ha)
  · have hd : decode 0x00000042 = .command .mabt := by decide
    rw [step_facing_engine, engineStep_of_pending hp]
    exact runWord_of_command hd s

end Sys2Proof.Machine
end

section
/-! The order of the micro-steps: which one the engine takes, and what it does to the state
(41_chunker_stream.md R460-R466). -/

namespace Sys2Proof.Machine

/-! ### The scheduled micro-step -/

theorem nextMicroStep_drain {s : State} (h : MicroStep.drain.Enabled s) :
    s.nextMicroStep = some .drain := if_pos h

theorem nextMicroStep_block {s : State} (h : MicroStep.block.Enabled s) :
    s.nextMicroStep = some .block := by
  obtain ⟨hibuf, hobuf⟩ := h
  have hdrain : ¬8 ≤ s.stream.obuf.length := by omega
  simp [State.nextMicroStep, hibuf, hobuf, hdrain]

theorem nextMicroStep_fill {s : State} (hdrain : ¬MicroStep.drain.Enabled s)
    (h : MicroStep.fill.Enabled s) : s.nextMicroStep = some .fill := by
  obtain ⟨hibuf, hbytes, hin⟩ := h
  have hblock : ¬MicroStep.block.Enabled s := fun ⟨hb, _⟩ => absurd hb (Nat.not_le_of_lt hibuf)
  exact (if_neg hdrain).trans ((if_neg hblock).trans (if_pos ⟨hibuf, hbytes, hin⟩))

theorem nextMicroStep_pad {s : State} (hdrain : ¬MicroStep.drain.Enabled s)
    (h : MicroStep.pad.Enabled s) : s.nextMicroStep = some .pad := by
  obtain ⟨hibuf, hbytes, hpad⟩ := h
  have hblock : ¬MicroStep.block.Enabled s := fun ⟨hb, _⟩ => absurd hb (Nat.not_le_of_lt hibuf)
  have hfill : ¬MicroStep.fill.Enabled s := fun ⟨_, hf, _⟩ => absurd hf (by omega)
  exact (if_neg hdrain).trans
    ((if_neg hblock).trans ((if_neg hfill).trans (if_pos ⟨hibuf, hbytes, hpad⟩)))

theorem nextMicroStep_finish {s : State} (h : MicroStep.finish.Enabled s) :
    s.nextMicroStep = some .finish := by
  obtain ⟨hibuf, hbytes, hpad, hobuf⟩ := h
  have hwidth := blockWidth_pos s.ctrl.variant
  have hblock : ¬blockWidth s.ctrl.variant ≤ 0 := by omega
  simp [State.nextMicroStep, hibuf, hbytes, hpad, hobuf, hblock]

theorem streamStep_of_next {s : State} {m : MicroStep} (h : s.nextMicroStep = some m) :
    streamStep s = microStep m s := by simp [streamStep, h]

theorem streamStep_of_hold {s : State} (h : s.nextMicroStep = none) : streamStep s = s := by
  simp [streamStep, h]

/-- On its turn the engine takes the scheduled micro-step. -/
theorem step_facing_engine_microStep {s : State} {m : MicroStep} (hp : s.pending = none)
    (ha : s.stream.active = true) (h : s.nextMicroStep = some m) :
    step (s.facing .engine) = .next (microStep m s) := by
  rw [step_facing_engine, engineStep_stream hp ha, streamStep_of_next h]

/-! ### Drain, fill and pad -/

/-- The fill step takes the oldest byte of the input FIFO (R461). -/
theorem fillStep_of_cons {s : State} {b : Byte} {rest : List Byte} (h : s.inFifo = b :: rest) :
    fillStep s = { s with
      inFifo := rest
      stream := { s.stream with
        ibuf := s.stream.ibuf ++ seqOf 8 b, bytesLeft := s.stream.bytesLeft - 1 } } := by
  simp [fillStep, h, toBits]

theorem padStep_byte {s : State} (h : s.ctrl.padMode = .byte) :
    padStep s = { s with
      stream := { s.stream with
        ibuf := s.stream.ibuf ++ seqOf 8 s.ctrl.padByte, padLeft := s.stream.padLeft - 1 } } := by
  simp [padStep, h]

theorem padStep_bit {s : State} (h : s.ctrl.padMode = .bit) :
    padStep s = { s with
      stream := { s.stream with
        ibuf := s.stream.ibuf ++ List.replicate s.stream.padLeft s.ctrl.padBit, padLeft := 0 } } := by
  simp [padStep, h]

/-- Settles O26: each condition schedules its micro-step, whose effect is then read off. -/
theorem drainFillPadSteps : Obligations.DrainFillPadSteps := by
  intro s hp ha
  refine ⟨fun hobuf hout => ?_, fun hdrain hibuf => ⟨fun b rest hbytes hin => ?_, ?_, ?_⟩⟩
  · exact step_facing_engine_microStep hp ha (nextMicroStep_drain ⟨hobuf, hout⟩)
  · have hfill : MicroStep.fill.Enabled s := ⟨hibuf, hbytes, by simp [hin]⟩
    rw [step_facing_engine_microStep hp ha (nextMicroStep_fill hdrain hfill)]
    exact congrArg _ (fillStep_of_cons hin)
  · intro hbytes hpad hmode
    rw [step_facing_engine_microStep hp ha (nextMicroStep_pad hdrain ⟨hibuf, hbytes, hpad⟩)]
    exact congrArg _ (padStep_byte hmode)
  · intro hbytes hpad hmode
    rw [step_facing_engine_microStep hp ha (nextMicroStep_pad hdrain ⟨hibuf, hbytes, hpad⟩)]
    exact congrArg _ (padStep_bit hmode)

/-! ### Block and finish -/

/-- The block step takes the first `B` bits of `IBUF` (R462). -/
theorem blockStep_of_append {s : State} {blk rest : Bits} (hibuf : s.stream.ibuf = blk ++ rest)
    (hblk : blk.length = blockWidth s.ctrl.variant) :
    blockStep s = { s with
      msgBlocks := s.msgBlocks + 1
      stream := { s.stream with
        ibuf := rest
        obuf := s.stream.obuf ++
          blockTransform s.ctrl.variant s.stream.modeDec s.roundKeySeqs blk } } := by
  simp [blockStep, hibuf, ← hblk]

/-- The count of blocks goes up by one modulo `2 ^ 32` (10_state.md R146). -/
theorem add_one_eq_ofNat (x : Word) : x + 1 = BitVec.ofNat 32 ((x.toNat + 1) % 2 ^ 32) := by
  apply BitVec.eq_of_toNat_eq
  simp

/-- With the stream empty, the blocks counted make up the padded message (R466). -/
theorem toNat_msgBlocks_of_finish {s : State} (h : BlockCount s) (ha : s.stream.active = true)
    (hm : MicroStep.finish.Enabled s) :
    s.msgBlocks.toNat = s.messageBits / blockWidth s.ctrl.variant := by
  obtain ⟨hibuf, hbytes, hpad, -⟩ := hm
  have hfiller : s.fillerLeft = 0 := by cases hmode : s.ctrl.padMode <;> simp [State.fillerLeft, hmode, hpad]
  have hcount := h ha
  rw [hibuf, hbytes, hfiller] at hcount
  rw [← hcount]
  exact (Nat.mul_div_cancel_left _ (blockWidth_pos _)).symm

/-- Settles O27: a full `IBUF` schedules the block step, an empty stream the finish step. -/
theorem blockAndFinishSteps : Obligations.BlockAndFinishSteps := by
  intro s hp ha
  refine ⟨fun blk rest q hibuf hblk hobuf hq => ?_, fun hibuf hbytes hpad hobuf => ?_⟩
  · have hblock : MicroStep.block.Enabled s := ⟨by simp [hibuf, hblk], hobuf⟩
    rw [step_facing_engine_microStep hp ha (nextMicroStep_block hblock), microStep,
      blockStep_of_append hibuf hblk, ← add_one_eq_ofNat, hq]
    cases s.ctrl.variant <;> cases s.stream.modeDec <;> rfl
  · have hfinish : MicroStep.finish.Enabled s := ⟨by simp [hibuf], hbytes, hpad, by simp [hobuf]⟩
    exact ⟨step_facing_engine_microStep hp ha (nextMicroStep_finish hfinish),
      fun hcount => toNat_msgBlocks_of_finish hcount ha hfinish⟩

end Sys2Proof.Machine
end

section
/-! The transform of a block and of a block-aligned sequence: it keeps the width, and the other direction undoes
it under the same round keys (41_chunker_stream.md R462, R475, R476, 45_feistel.md R680). -/

namespace Sys2Proof.Machine

/-! ### Tables that undo each other -/

/-- Applying `U` after `T` gives the input back when entry `j` of `U` names the entry of `T` that is `j`. -/
theorem applyTable_applyTable {x : Bits} {T U : List Nat} (hx : x.length = U.length)
    (hinv : ∀ j < U.length, U.getD j 0 < T.length ∧ T.getD (U.getD j 0) 0 = j) :
    applyTable (applyTable x T) U = x := by
  apply bits_ext (by simp [hx])
  intro j hj
  rw [length_applyTable] at hj
  obtain ⟨hlt, heq⟩ := hinv j hj
  rw [getD_applyTable, getD_applyTable, heq, decide_eq_true hj, decide_eq_true hlt, Bool.true_and,
    Bool.true_and]

/-- FP undoes IP (42_permutation.md R502, R511). -/
theorem applyTable_IP_FP {x : Bits} (hx : x.length = 64) :
    applyTable (applyTable x tableIP) tableFP = x :=
  applyTable_applyTable hx (by decide)

/-- IP undoes FP (42_permutation.md R502, R511). -/
theorem applyTable_FP_IP {x : Bits} (hx : x.length = 64) :
    applyTable (applyTable x tableFP) tableIP = x :=
  applyTable_applyTable hx (by decide)

/-! ### The rounds -/

/-- The rounds in the reverse order undo the rounds, between swaps (45_feistel.md R680). -/
theorem runRounds_reverse_swap {v : Variant} (keys : List Bits) {p : Bits × Bits} (h : HalvesOk v p) :
    runRounds v keys.reverse (runRounds v keys p).swap = p.swap := by
  induction keys generalizing p with
  | nil => rfl
  | cons k ks ih =>
    rw [List.reverse_cons, runRounds_append]
    calc runRounds v [k] (runRounds v ks.reverse (runRounds v ks (roundForward v k p)).swap)
        = runRounds v [k] (roundForward v k p).swap := by rw [ih (halvesOk_roundForward k h)]
      _ = p.swap := roundForward_swap k h

/-- The round keys in the order in which a direction uses them (45_feistel.md R653, R654). -/
def keyOrder (dec : Bool) (keys : List Bits) : List Bits := if dec then keys.reverse else keys

theorem keyOrder_not (dec : Bool) (keys : List Bits) :
    keyOrder (!dec) keys = (keyOrder dec keys).reverse := by
  cases dec <;> simp [keyOrder]

/-- The rounds of one block and the swap, on the block's bits: the transform without IP and FP (R462). -/
def cipherBits (v : Variant) (dec : Bool) (keys : List Bits) (x : Bits) : Bits :=
  let q := (runRounds v (keyOrder dec keys) (x.take (halfWidth v), x.drop (halfWidth v))).swap
  q.1 ++ q.2

theorem halvesOk_swap {v : Variant} {p : Bits × Bits} (h : HalvesOk v p) : HalvesOk v p.swap := And.symm h

theorem halvesOk_split {v : Variant} {x : Bits} (hx : x.length = blockWidth v) :
    HalvesOk v (x.take (halfWidth v), x.drop (halfWidth v)) := by
  have hwidth : blockWidth v = 2 * halfWidth v := rfl
  constructor <;> simp [hx] <;> omega

theorem length_cipherBits {v : Variant} {x : Bits} (dec : Bool) (keys : List Bits)
    (hx : x.length = blockWidth v) : (cipherBits v dec keys x).length = blockWidth v := by
  obtain ⟨hl, hr⟩ := halvesOk_swap (halvesOk_runRounds (keyOrder dec keys) (halvesOk_split hx))
  have hwidth : blockWidth v = 2 * halfWidth v := rfl
  rw [cipherBits, List.length_append, hl, hr]
  omega

theorem cipherBits_cipherBits {v : Variant} {x : Bits} (dec : Bool) (keys : List Bits)
    (hx : x.length = blockWidth v) : cipherBits v (!dec) keys (cipherBits v dec keys x) = x := by
  have hsplit := halvesOk_split hx
  have hundo := runRounds_reverse_swap (keyOrder dec keys) hsplit
  obtain ⟨hl, -⟩ := halvesOk_swap (halvesOk_runRounds (keyOrder dec keys) hsplit)
  simp only [cipherBits, keyOrder_not]
  rw [List.take_left' hl, List.drop_left' hl, Prod.mk.eta, hundo]
  exact List.take_append_drop _ _

/-! ### One block -/

theorem blockTransform_full (dec : Bool) (keys : List Bits) (blk : Bits) :
    blockTransform .full dec keys blk =
      applyTable (cipherBits .full dec keys (applyTable blk tableIP)) tableFP := by cases dec <;> rfl

theorem blockTransform_toy (dec : Bool) (keys : List Bits) (blk : Bits) :
    blockTransform .toy dec keys blk = cipherBits .toy dec keys blk := by cases dec <;> rfl

theorem length_blockTransform {v : Variant} {blk : Bits} (dec : Bool) (keys : List Bits)
    (h : blk.length = blockWidth v) : (blockTransform v dec keys blk).length = blockWidth v := by
  cases v with
  | full => rw [blockTransform_full, length_applyTable]; rfl
  | toy => rw [blockTransform_toy, length_cipherBits dec keys h]

theorem blockTransform_blockTransform {v : Variant} {blk : Bits} (dec : Bool) (keys : List Bits)
    (h : blk.length = blockWidth v) :
    blockTransform v (!dec) keys (blockTransform v dec keys blk) = blk := by
  cases v with
  | full =>
    have hIP : (applyTable blk tableIP).length = blockWidth .full := length_applyTable _ _
    rw [blockTransform_full, blockTransform_full, applyTable_FP_IP (length_cipherBits dec keys hIP),
      cipherBits_cipherBits dec keys hIP, applyTable_IP_FP h]
  | toy => rw [blockTransform_toy, blockTransform_toy, cipherBits_cipherBits dec keys h]

/-- Settles O28, from the rounds' inverse and, in Full, from IP and FP undoing each other. -/
theorem blockTransformInverts : Obligations.BlockTransformInverts := fun _ dec keys _ h =>
  ⟨length_blockTransform dec keys h, blockTransform_blockTransform dec keys h⟩

/-! ### A block-aligned sequence -/

theorem transformBits_nil (v : Variant) (dec : Bool) (keys : List Bits) :
    transformBits v dec keys [] = [] := by simp [transformBits, blocksOf]

/-- Induction over the blocks of a block-aligned sequence (R450). -/
theorem aligned_induction {b : Nat} {P : Bits → Prop} (nil : P [])
    (append : ∀ blk x, blk.length = b → P x → P (blk ++ x)) {x : Bits} (h : x.length % b = 0) : P x := by
  obtain ⟨n, hn⟩ := Nat.dvd_of_mod_eq_zero h
  induction n generalizing x with
  | zero => rw [List.length_eq_zero_iff.mp hn]; exact nil
  | succ n ih =>
    rw [Nat.mul_succ] at hn
    have hrest : (x.drop b).length = b * n := by simp [hn]
    rw [← List.take_append_drop b x]
    exact append _ _ (by simp [hn]) (ih (by simp [hrest]) hrest)

theorem length_transformBits {v : Variant} {x : Bits} (dec : Bool) (keys : List Bits)
    (h : x.length % blockWidth v = 0) : (transformBits v dec keys x).length = x.length := by
  refine aligned_induction (P := fun x => (transformBits v dec keys x).length = x.length)
    (by rw [transformBits_nil]) (fun blk x hblk ih => ?_) h
  rw [transformBits_append hblk, List.length_append, List.length_append,
    length_blockTransform dec keys hblk, ih, hblk]

/-- Block by block, the other direction undoes the transform (R475). -/
theorem transformBits_transformBits {v : Variant} {x : Bits} (dec : Bool) (keys : List Bits)
    (h : x.length % blockWidth v = 0) :
    transformBits v (!dec) keys (transformBits v dec keys x) = x := by
  refine aligned_induction (P := fun x => transformBits v (!dec) keys (transformBits v dec keys x) = x)
    (by rw [transformBits_nil, transformBits_nil]) (fun blk x hblk ih => ?_) h
  rw [transformBits_append hblk, transformBits_append (length_blockTransform dec keys hblk),
    blockTransform_blockTransform dec keys hblk, ih]

end Sys2Proof.Machine
end

section
/-! Every step keeps the stream invariant. The bounds of a running message are a predicate of their own, which the
message's start establishes and each enabled micro-step keeps; what makes them hold is that the bits left are
moved, never lost (41_chunker_stream.md R453, R460, R465). -/

namespace Sys2Proof.Machine

/-! ### The bits still to be formed into blocks -/

/-- The bits in `IBUF`, the bytes still to be popped and the filler still to be appended. -/
def State.bitsLeft (s : State) : Nat :=
  s.stream.ibuf.length + 8 * s.stream.bytesLeft + s.fillerLeft

theorem bitsLeft_blockStep {s : State} (h : MicroStep.block.Enabled s) :
    (blockStep s).bitsLeft + blockWidth s.ctrl.variant = s.bitsLeft := by
  obtain ⟨hibuf, -⟩ := h
  have hlen : (blockStep s).stream.ibuf.length = s.stream.ibuf.length - blockWidth s.ctrl.variant :=
    List.length_drop
  have hbytes : (blockStep s).stream.bytesLeft = s.stream.bytesLeft := rfl
  have hfiller : (blockStep s).fillerLeft = s.fillerLeft := rfl
  rw [State.bitsLeft, State.bitsLeft, hlen, hbytes, hfiller]
  omega

theorem length_ibuf_fillStep {s : State} (h : MicroStep.fill.Enabled s) :
    (fillStep s).stream.ibuf.length = s.stream.ibuf.length + 8 := by
  obtain ⟨-, -, hin⟩ := h
  simp [fillStep, length_toBits]
  omega

theorem bitsLeft_fillStep {s : State} (h : MicroStep.fill.Enabled s) :
    (fillStep s).bitsLeft = s.bitsLeft := by
  have hlen := length_ibuf_fillStep h
  obtain ⟨-, hpos, -⟩ := h
  have hbytes : (fillStep s).stream.bytesLeft = s.stream.bytesLeft - 1 := rfl
  have hfiller : (fillStep s).fillerLeft = s.fillerLeft := rfl
  rw [State.bitsLeft, State.bitsLeft, hlen, hbytes, hfiller]
  omega

theorem bitsLeft_padStep {s : State} (h : MicroStep.pad.Enabled s) :
    (padStep s).bitsLeft = s.bitsLeft := by
  obtain ⟨-, -, hpad⟩ := h
  have hmoved := ibuf_fillerLeft_padStep hpad
  rw [State.bitsLeft, State.bitsLeft, bytesLeft_padStep]
  omega

/-! ### The bounds of a running message -/

/-- The part of `StreamInv` that speaks of a running message, without the flags. -/
structure StreamBounds (s : State) : Prop where
  ibufBound : s.stream.ibuf.length ≤ blockWidth s.ctrl.variant + 7
  obufBound : s.stream.obuf.length ≤ blockWidth s.ctrl.variant + 7
  bytesBound : s.stream.bytesLeft < 2 ^ 32
  padBound : s.stream.padLeft ≤ 63
  bitPad : s.ctrl.padMode = .bit → s.stream.padLeft < blockWidth s.ctrl.variant
  aligned : s.bitsLeft % blockWidth s.ctrl.variant = 0
  whole : (s.stream.obuf.length + s.bitsLeft) % 8 = 0

theorem length_obuf_bitsLeft (s : State) : s.stream.obuf.length + s.bitsLeft =
    s.stream.obuf.length + s.stream.ibuf.length + 8 * s.stream.bytesLeft + s.fillerLeft := by
  rw [State.bitsLeft]; omega

theorem streamBounds_of_inv {s : State} (h : StreamInv s) (ha : s.stream.active = true) :
    StreamBounds s :=
  { h with
    bitPad := h.bitPad ha
    aligned := h.aligned ha
    whole := length_obuf_bitsLeft s ▸ h.whole ha }

/-- The invariant during a message: the bounds, and no command pending. -/
theorem streamInv_of_bounds {s : State} (h : StreamBounds s) (hp : s.pending = none)
    (ha : s.stream.active = true) : StreamInv s :=
  { h with
    exclusive := fun hsome => by rw [hp] at hsome; cases hsome
    idle := fun hidle => by rw [ha] at hidle; cases hidle
    bitPad := fun _ => h.bitPad
    aligned := fun _ => h.aligned
    whole := fun _ => length_obuf_bitsLeft s ▸ h.whole }

/-- The invariant between messages: the stream holds nothing. -/
theorem streamInv_of_empty {s : State} (ha : s.stream.active = false)
    (hempty : s.stream.ibuf = [] ∧ s.stream.obuf = [] ∧ s.stream.bytesLeft = 0 ∧ s.stream.padLeft = 0) :
    StreamInv s := by
  obtain ⟨hibuf, hobuf, hbytes, hpad⟩ := hempty
  have hinactive : s.stream.active ≠ true := by simp [ha]
  exact
    { exclusive := fun _ => ha
      idle := fun _ => ⟨hibuf, hobuf, hbytes, hpad⟩
      ibufBound := by simp [hibuf]
      obufBound := by simp [hobuf]
      bytesBound := by simp [hbytes]
      padBound := by simp [hpad]
      bitPad := fun h => absurd h hinactive
      aligned := fun h => absurd h hinactive
      whole := fun h => absurd h hinactive }

/-! ### The start of a message -/

/-- The filler bits of BIT mode align the message (R453). -/
theorem paddingUnits_bit_aligns (v : Variant) (n : Nat) :
    (8 * n + paddingUnits v .bit n) % blockWidth v = 0 := by
  cases v <;> simp only [paddingUnits, blockWidth, halfWidth] <;> omega

theorem paddingUnits_bit_lt (v : Variant) (n : Nat) : paddingUnits v .bit n < blockWidth v := by
  cases v <;> simp only [paddingUnits, blockWidth, halfWidth] <;> omega

/-- The filler is a whole number of bytes when the padding check passes (R453, R455). -/
theorem fillerLeft_startMessage_mod {s : State} (dec : Bool) (hcheck : (padCheck s).1 = false) :
    (startMessage dec s).fillerLeft % 8 = 0 := by
  cases hm : s.ctrl.padMode with
  | byte => simp [State.fillerLeft, hm]
  | bit => simpa [State.fillerLeft, padCheck, hm] using hcheck

theorem bitsLeft_startMessage (dec : Bool) (s : State) :
    (startMessage dec s).bitsLeft = 8 * s.msgLen.toNat + (startMessage dec s).fillerLeft := by
  simp [State.bitsLeft]

/-- The padded message is a whole number of blocks (R453). -/
theorem bitsLeft_startMessage_mod (dec : Bool) (s : State) :
    (startMessage dec s).bitsLeft % blockWidth s.ctrl.variant = 0 := by
  rw [bitsLeft_startMessage]
  cases hm : s.ctrl.padMode with
  | byte =>
    have haligns := paddingUnits_byte_aligns s.ctrl.variant s.msgLen.toNat
    simpa [State.fillerLeft, padFor_eq, hm, Nat.mul_add] using haligns
  | bit =>
    have haligns := paddingUnits_bit_aligns s.ctrl.variant s.msgLen.toNat
    simpa [State.fillerLeft, padFor_eq, hm] using haligns

theorem streamBounds_startMessage {s : State} (dec : Bool) (hcheck : (padCheck s).1 = false) :
    StreamBounds (startMessage dec s) where
  ibufBound := Nat.zero_le _
  obufBound := Nat.zero_le _
  bytesBound := s.msgLen.isLt
  padBound := padAmount_le _ _ _
  bitPad := by
    intro hm
    have hm : s.ctrl.padMode = .bit := hm
    show s.padFor < blockWidth s.ctrl.variant
    rw [padFor_eq, hm]
    exact paddingUnits_bit_lt _ _
  aligned := bitsLeft_startMessage_mod dec s
  whole := by
    have hfiller := fillerLeft_startMessage_mod dec hcheck
    rw [bitsLeft_startMessage, startMessage_stream]
    simp only [List.length_nil]
    omega

/-! ### The micro-steps -/

theorem streamBounds_drainStep {s : State} (h : StreamBounds s) (hm : MicroStep.drain.Enabled s) :
    StreamBounds (drainStep s) := by
  obtain ⟨hobuf, -⟩ := hm
  have hlen : (drainStep s).stream.obuf.length = s.stream.obuf.length - 8 := List.length_drop
  have hleft : (drainStep s).bitsLeft = s.bitsLeft := rfl
  have hbound := h.obufBound
  have hwhole := h.whole
  exact
    { h with
      obufBound := by rw [hlen, drainStep_ctrl]; omega
      whole := by rw [hlen, hleft]; omega }

theorem length_obuf_blockStep {s : State} (h : MicroStep.block.Enabled s) :
    (blockStep s).stream.obuf.length = s.stream.obuf.length + blockWidth s.ctrl.variant := by
  obtain ⟨hibuf, -⟩ := h
  have hblk : (s.stream.ibuf.take (blockWidth s.ctrl.variant)).length = blockWidth s.ctrl.variant :=
    List.length_take_of_le hibuf
  show (s.stream.obuf ++ blockTransform _ _ _ _).length = _
  rw [List.length_append, length_blockTransform _ _ hblk]

theorem streamBounds_blockStep {s : State} (h : StreamBounds s) (hm : MicroStep.block.Enabled s) :
    StreamBounds (blockStep s) := by
  have hleft := bitsLeft_blockStep hm
  have holen := length_obuf_blockStep hm
  obtain ⟨hibuf, hobuf⟩ := hm
  have hilen : (blockStep s).stream.ibuf.length ≤ s.stream.ibuf.length :=
    (List.drop_sublist _ _).length_le
  have hwhole := h.whole
  exact
    { h with
      ibufBound := hilen.trans h.ibufBound
      obufBound := by rw [holen, blockStep_ctrl]; omega
      aligned := by
        have haligned := h.aligned
        rw [← hleft, Nat.add_mod_right] at haligned
        exact haligned
      whole := by rw [holen]; omega }

theorem streamBounds_fillStep {s : State} (h : StreamBounds s) (hm : MicroStep.fill.Enabled s) :
    StreamBounds (fillStep s) := by
  have hleft := bitsLeft_fillStep hm
  have hlen := length_ibuf_fillStep hm
  obtain ⟨hibuf, -, -⟩ := hm
  exact
    { h with
      ibufBound := by rw [hlen, fillStep_ctrl]; omega
      bytesBound := (Nat.sub_le _ 1).trans_lt h.bytesBound
      aligned := hleft ▸ h.aligned
      whole := hleft ▸ h.whole }

/-- Two parts shorter than a block that make up whole blocks make up at most one. -/
theorem add_le_of_mod_eq_zero {a c b : Nat} (ha : a < b) (hc : c < b) (h : (a + c) % b = 0) :
    a + c ≤ b := by
  by_contra hlt
  rw [Nat.mod_eq_sub_mod (by omega), Nat.mod_eq_of_lt (by omega)] at h
  omega

theorem padLeft_padStep_le (s : State) : (padStep s).stream.padLeft ≤ s.stream.padLeft := by
  cases hmode : s.ctrl.padMode <;> simp [padStep, hmode]

theorem obuf_padStep (s : State) : (padStep s).stream.obuf = s.stream.obuf := by
  cases hmode : s.ctrl.padMode <;> simp [padStep, hmode]

/-- A filler byte is shorter than the room of 7 bits beyond a block, and all filler bits fill the block exactly
(R463). -/
theorem length_ibuf_padStep_le {s : State} (h : StreamBounds s) (hm : MicroStep.pad.Enabled s) :
    (padStep s).stream.ibuf.length ≤ blockWidth s.ctrl.variant + 7 := by
  obtain ⟨hibuf, hbytes, -⟩ := hm
  cases hmode : s.ctrl.padMode with
  | byte =>
    rw [padStep_byte hmode]
    simp
    omega
  | bit =>
    have haligned := h.aligned
    simp only [State.bitsLeft, State.fillerLeft, hmode, hbytes, Nat.mul_zero, Nat.add_zero] at haligned
    have hfull := add_le_of_mod_eq_zero hibuf (h.bitPad hmode) haligned
    rw [padStep_bit hmode]
    simp
    omega

theorem streamBounds_padStep {s : State} (h : StreamBounds s) (hm : MicroStep.pad.Enabled s) :
    StreamBounds (padStep s) := by
  have hleft := bitsLeft_padStep hm
  have hpad := padLeft_padStep_le s
  exact
    { ibufBound := length_ibuf_padStep_le h hm
      obufBound := obuf_padStep s ▸ h.obufBound
      bytesBound := bytesLeft_padStep s ▸ h.bytesBound
      padBound := hpad.trans h.padBound
      bitPad := fun hmode => hpad.trans_lt (h.bitPad hmode)
      aligned := hleft ▸ h.aligned
      whole := by rw [hleft, obuf_padStep]; exact h.whole }

/-- An enabled micro-step keeps the bounds (R465). -/
theorem streamBounds_microStep {m : MicroStep} {s : State} (h : StreamBounds s) (hm : m.Enabled s) :
    StreamBounds (microStep m s) := by
  cases m with
  | drain => exact streamBounds_drainStep h hm
  | block => exact streamBounds_blockStep h hm
  | fill => exact streamBounds_fillStep h hm
  | pad => exact streamBounds_padStep h hm
  | finish => exact { h with }

theorem microStep_pending (m : MicroStep) (s : State) : (microStep m s).pending = s.pending := by
  cases m <;> rfl

/-- Only the finish step ends the message (R466). -/
theorem microStep_active {m : MicroStep} (h : m ≠ .finish) (s : State) :
    (microStep m s).stream.active = s.stream.active := by
  cases m with
  | finish => exact absurd rfl h
  | pad => cases hmode : s.ctrl.padMode <;> simp [microStep, padStep, hmode]
  | _ => rfl

/-- The finish step leaves an empty stream (R465, R466). -/
theorem streamInv_finishStep {s : State} (hm : MicroStep.finish.Enabled s) : StreamInv (finishStep s) := by
  obtain ⟨hibuf, hbytes, hpad, hobuf⟩ := hm
  exact streamInv_of_empty rfl
    ⟨List.length_eq_zero_iff.mp hibuf, List.length_eq_zero_iff.mp hobuf, hbytes, hpad⟩

theorem streamInv_microStep {m : MicroStep} {s : State} (h : StreamBounds s) (hp : s.pending = none)
    (ha : s.stream.active = true) (hm : m.Enabled s) : StreamInv (microStep m s) := by
  by_cases hfinish : m = .finish
  · subst hfinish
    exact streamInv_finishStep hm
  · exact streamInv_of_bounds (streamBounds_microStep h hm) ((microStep_pending m s).trans hp)
      ((microStep_active hfinish s).trans ha)

theorem streamInv_streamStep {s : State} (h : StreamInv s) (hp : s.pending = none)
    (ha : s.stream.active = true) : StreamInv (streamStep s) := by
  cases hm : s.nextMicroStep with
  | none => rwa [streamStep_of_hold hm]
  | some m =>
    rw [streamStep_of_next hm]
    exact streamInv_microStep (streamBounds_of_inv h ha) hp ha (enabled_of_nextMicroStep hm)

/-! ### The commands -/

theorem streamInv_startMessage {s : State} (dec : Bool) (hcheck : (padCheck s).1 = false) :
    StreamInv (startMessage dec s) :=
  streamInv_of_bounds (streamBounds_startMessage dec hcheck) rfl rfl

theorem streamInv_resetBlock (s : State) : StreamInv (resetBlock s) :=
  streamInv_of_empty rfl ⟨rfl, rfl, rfl, rfl⟩

/-- A command that passes its checks starts a message, ends one, or completes and leaves the stream. -/
theorem streamInv_success {i : Instr} {s : State} (h : StreamInv s)
    (hc : ∀ c ∈ checksOf i s, c.1 = false) : StreamInv (success i s) := by
  cases i with
  | msge => exact streamInv_startMessage false (hc _ (by simp [checksOf]))
  | msgd => exact streamInv_startMessage true (hc _ (by simp [checksOf]))
  | srst => exact streamInv_resetBlock s
  | mabt => exact streamInv_of_empty rfl ⟨rfl, rfl, rfl, rfl⟩
  | _ => exact { h with exclusive := nofun }

theorem streamInv_failCommand {s : State} (h : StreamInv s) (c : ErrorCode) (w : Word) :
    StreamInv (failCommand c w s) :=
  { h with exclusive := nofun }

theorem streamInv_exec {i : Instr} {s t : State} (h : StreamInv s) (he : exec i s = .next t) :
    StreamInv t := by
  obtain ⟨code, -, rfl⟩ | ⟨hc, rfl⟩ := exec_cases he
  · exact streamInv_failCommand h code _
  · exact streamInv_success h hc

/-! ### The host's accesses -/

theorem streamInv_raiseError {s : State} (h : StreamInv s) (c : ErrorCode) (src : ErrorSource)
    (info : Word) : StreamInv (raiseError c src info s) :=
  { h with }

theorem streamInv_readReg {s : State} (h : StreamInv s) (r : Reg) : StreamInv (readReg r s) := by
  obtain ⟨q, v, n, heq⟩ := readReg_frame r s
  rw [heq]
  exact { h with }

theorem streamInv_pushIn {s : State} (h : StreamInv s) (v : Word) : StreamInv (pushIn v s) := by
  obtain ⟨q, e, heq⟩ := pushIn_frame v s
  rw [heq]
  exact { h with }

/-- `CTRL`, on which the bounds depend, is busy-locked, so no message runs when it is written (10_state.md
R160). -/
theorem streamInv_setReg {s : State} {r : Reg} (h : StreamInv s) (hfree : (s.busy && r.locked) = false)
    (v : Word) : StreamInv (setReg r v s) := by
  cases r with
  | ctrl =>
    have hidle := (busy_eq_false.mp (by simpa [Reg.locked] using hfree)).2
    exact streamInv_of_empty hidle (h.idle hidle)
  | fifoIn => exact streamInv_pushIn h v
  | _ => exact { h with }

theorem streamInv_writeReg {s : State} (h : StreamInv s) (off : Nat) (v : Word) :
    StreamInv (writeReg off v s) := by
  unfold writeReg
  split
  · exact streamInv_raiseError h _ _ _
  · next hfree => exact streamInv_setReg h (by simpa using hfree) v

/-! ### The step -/

theorem streamInv_hostCase {a : Access} {s t : State} (h : StreamInv s) (hc : HostCase a s t) :
    StreamInv t := by
  cases hc with
  | read off ha ht => exact ht ▸ streamInv_readReg h _
  | write off v ha hoff ht => exact ht ▸ streamInv_writeReg h off v
  | srst w ha ht => exact ht ▸ streamInv_resetBlock s
  | mabt w ha hm ht => exact ht ▸ streamInv_success h (by simp [checksOf])
  | rejected w ha hb ht => exact ht ▸ streamInv_raiseError h _ _ _
  | accepted w ha hb ht => exact ht ▸ { h with exclusive := fun _ => (busy_eq_false.mp hb).2 }

theorem streamInv_engineCase {s t : State} (h : StreamInv s) (hc : EngineCase s t) : StreamInv t := by
  cases hc with
  | command w i hp hd he => exact streamInv_exec h he
  | illegal w r hp hd ht => exact ht ▸ streamInv_failCommand h _ w
  | stream hp ha ht => exact ht ▸ streamInv_streamStep h hp ha
  | idle hp ha ht => exact ht ▸ h

/-- Settles O55, by the cases of a step: the reset event, a host access, the engine's turn. -/
theorem stepKeepsStreamInv : Obligations.StepKeepsStreamInv := by
  intro s t h hstep
  have hpop : StreamInv { s with agenda := s.agenda.tail } := { h with }
  cases step_cases hstep with
  | reset rest hs ht => exact ht ▸ streamInv_resetBlock _
  | host a rest hs hc => exact streamInv_hostCase hpop hc
  | engine hc => exact streamInv_engineCase hpop hc

end Sys2Proof.Machine
end

section
/-! When a stream holds: it waits for room in the output FIFO or for a message byte (41_chunker_stream.md R467). -/

namespace Sys2Proof.Machine

/-- What a hold waits for, read off the state (R467). -/
inductive HoldCase (s : State) : Prop where
  | room (hobuf : 8 ≤ s.stream.obuf.length) (hfull : s.params.outDepth ≤ s.outFifo.length)
  | input (hobuf : s.stream.obuf.length < 8)
      (hibuf : s.stream.ibuf.length < blockWidth s.ctrl.variant) (hbytes : 0 < s.stream.bytesLeft)
      (hin : s.inFifo = [])

/-- With no bytes and no filler to come, what is in the buffers is a whole number of blocks and of bytes. -/
theorem buffers_mod_of_all_taken {s : State} (h : StreamBounds s) (hbytes : s.stream.bytesLeft = 0)
    (hpad : s.stream.padLeft = 0) :
    s.stream.ibuf.length % blockWidth s.ctrl.variant = 0 ∧
      (s.stream.obuf.length + s.stream.ibuf.length) % 8 = 0 := by
  have hleft : s.bitsLeft = s.stream.ibuf.length := by
    cases hmode : s.ctrl.padMode <;> simp [State.bitsLeft, State.fillerLeft, hmode, hbytes, hpad]
  exact ⟨hleft ▸ h.aligned, hleft ▸ h.whole⟩

/-- No other hold exists: a stream with nothing to wait for is empty, and then it finishes (R465, R467). -/
theorem holdCase_of_hold {s : State} (h : StreamBounds s) (hhold : s.nextMicroStep = none) :
    HoldCase s := by
  have hnot := not_enabled_of_hold hhold
  by_cases hobuf : 8 ≤ s.stream.obuf.length
  · exact .room hobuf (Nat.le_of_not_lt fun hout => hnot .drain ⟨hobuf, hout⟩)
  · have hobuf : s.stream.obuf.length < 8 := Nat.lt_of_not_le hobuf
    have hibuf : s.stream.ibuf.length < blockWidth s.ctrl.variant :=
      Nat.lt_of_not_le fun hb => hnot .block ⟨hb, hobuf⟩
    by_cases hbytes : 0 < s.stream.bytesLeft
    · refine .input hobuf hibuf hbytes (List.length_eq_zero_iff.mp ?_)
      exact Nat.eq_zero_of_not_pos fun hin => hnot .fill ⟨hibuf, hbytes, hin⟩
    · have hbytes : s.stream.bytesLeft = 0 := Nat.eq_zero_of_not_pos hbytes
      have hpad : s.stream.padLeft = 0 := Nat.eq_zero_of_not_pos fun hp => hnot .pad ⟨hibuf, hbytes, hp⟩
      obtain ⟨haligned, hwhole⟩ := buffers_mod_of_all_taken h hbytes hpad
      rw [Nat.mod_eq_of_lt hibuf] at haligned
      exact absurd ⟨haligned, hbytes, hpad, by omega⟩ (hnot .finish)

theorem outStall_iff {s : State} : s.outStall = true ↔
    s.stream.active = true ∧ 8 ≤ s.stream.obuf.length ∧ s.outFifo.length = s.params.outDepth := by
  simp [State.outStall, State.outFull, and_assoc]

theorem inWait_iff {s : State} : s.inWait = true ↔
    s.stream.active = true ∧ s.stream.obuf.length < 8 ∧
      s.stream.ibuf.length < blockWidth s.ctrl.variant ∧ 0 < s.stream.bytesLeft ∧ s.inFifo = [] := by
  simp [State.inWait, and_assoc]

/-- In `IN_WAIT` every condition of R460 fails. -/
theorem nextMicroStep_of_inWait {s : State} (h : s.inWait = true) : s.nextMicroStep = none := by
  obtain ⟨-, hobuf, hibuf, hbytes, hin⟩ := inWait_iff.mp h
  cases hm : s.nextMicroStep with
  | none => rfl
  | some m =>
    have henabled := enabled_of_nextMicroStep hm
    cases m with
    | drain => obtain ⟨hge, -⟩ := henabled; omega
    | block => obtain ⟨hge, -⟩ := henabled; omega
    | fill => obtain ⟨-, -, hlevel⟩ := henabled; simp [hin] at hlevel
    | pad => obtain ⟨-, hnone, -⟩ := henabled; omega
    | finish => obtain ⟨-, hnone, -⟩ := henabled; omega

/-- In `OUT_STALL` the conditions of drain, block and finish fail (log 17). -/
theorem nextMicroStep_of_outStall {s : State} (h : s.outStall = true) :
    s.nextMicroStep ∈ [none, some .fill, some .pad] := by
  obtain ⟨-, hobuf, hfull⟩ := outStall_iff.mp h
  cases hm : s.nextMicroStep with
  | none => simp
  | some m =>
    have henabled := enabled_of_nextMicroStep hm
    cases m with
    | drain => obtain ⟨-, hroom⟩ := henabled; omega
    | block => obtain ⟨-, hlt⟩ := henabled; omega
    | fill => simp
    | pad => simp
    | finish => obtain ⟨-, -, -, hempty⟩ := henabled; omega

/-- Settles O29, from the hold's two cases and the conditions that the two flags name. -/
theorem holdsAreStallOrWait : Obligations.HoldsAreStallOrWait := by
  intro s hinv hrange ha hp
  refine ⟨fun hhold => ⟨?_, ?_⟩, fun ⟨hstall, hwait⟩ => ?_, fun hwait => ?_, fun hstall => ?_⟩
  · cases holdCase_of_hold (streamBounds_of_inv hinv ha) hhold with
    | room hobuf hfull => exact .inl (outStall_iff.mpr ⟨ha, hobuf, hrange.outLevel.antisymm hfull⟩)
    | input hobuf hibuf hbytes hin => exact .inr (inWait_iff.mpr ⟨ha, hobuf, hibuf, hbytes, hin⟩)
  · rw [step_facing_engine, engineStep_stream hp ha, streamStep_of_hold hhold]
  · obtain ⟨-, hge, -⟩ := outStall_iff.mp hstall
    obtain ⟨-, hlt, -⟩ := inWait_iff.mp hwait
    omega
  · obtain ⟨-, hobuf, hibuf, hbytes, -⟩ := inWait_iff.mp hwait
    refine ⟨nextMicroStep_of_inWait hwait, fun b => nextMicroStep_fill ?_ ⟨hibuf, hbytes, Nat.one_pos⟩⟩
    exact fun ⟨hge, _⟩ => absurd hge (Nat.not_le_of_lt hobuf)
  · obtain ⟨-, hobuf, hfull⟩ := outStall_iff.mp hstall
    obtain ⟨-, ⟨hdepth, -⟩, -⟩ := hrange.params
    refine ⟨nextMicroStep_of_outStall hstall, nextMicroStep_drain ⟨hobuf, ?_⟩⟩
    show (s.outFifo.drop 1).length < s.params.outDepth
    rw [List.length_drop]
    omega

end Sys2Proof.Machine
end

section
/-! What the micro-steps keep of the message they run: its whole output, the input beyond it, the count of its
blocks and everything outside the stream (41_chunker_stream.md R450, R451, R460-R466). -/

namespace Sys2Proof.Machine

/-! ### The input still to come -/

@[simp] theorem toBits_nil : toBits [] = [] := rfl

theorem inputBits_blockStep (s : State) :
    s.inputBits = s.stream.ibuf.take (blockWidth s.ctrl.variant) ++ (blockStep s).inputBits := by
  have hrest : (blockStep s).inputBits = s.stream.ibuf.drop (blockWidth s.ctrl.variant) ++
      toBits (s.inFifo.take s.stream.bytesLeft) ++ s.fillerBits := rfl
  rw [hrest, ← List.append_assoc, ← List.append_assoc, List.take_append_drop, State.inputBits]

theorem inputBits_fillStep {s : State} (h : MicroStep.fill.Enabled s) :
    (fillStep s).inputBits = s.inputBits := by
  obtain ⟨-, hpos, hlevel⟩ := h
  obtain ⟨b, rest, hin⟩ := List.exists_cons_of_length_pos hlevel
  obtain ⟨n, hbytes⟩ := Nat.exists_eq_add_of_lt hpos
  have hfiller : (fillStep s).fillerBits = s.fillerBits := rfl
  rw [State.inputBits, State.inputBits, hfiller, fillStep_of_cons hin]
  simp [hin, hbytes, toBits_cons]

theorem inputBits_padStep {s : State} (h : MicroStep.pad.Enabled s) :
    (padStep s).inputBits = s.inputBits := by
  obtain ⟨-, hbytes, hpos⟩ := h
  obtain ⟨n, hpad⟩ := Nat.exists_eq_add_of_lt hpos
  cases hmode : s.ctrl.padMode with
  | byte =>
    rw [padStep_byte hmode]
    simp [State.inputBits, State.fillerBits, hmode, hbytes, hpad, List.replicate_succ, toBits_cons]
  | bit =>
    rw [padStep_bit hmode]
    simp [State.inputBits, State.fillerBits, hmode, hbytes]

/-! ### The whole output -/

theorem outputBits_of_eq {s t : State} (hout : t.outFifo = s.outFifo) (hobuf : t.stream.obuf = s.stream.obuf)
    (hctrl : t.ctrl = s.ctrl) (hdec : t.stream.modeDec = s.stream.modeDec) (hrkf : t.rkf = s.rkf)
    (hinput : t.inputBits = s.inputBits) : t.outputBits = s.outputBits := by
  simp only [State.outputBits, State.roundKeySeqs, State.roundKeySeq, State.roundKeyWord, State.rounds,
    hout, hobuf, hctrl, hdec, hrkf, hinput]

/-- The byte that the drain step pushes is the first 8 bits of `OBUF` (R464). -/
theorem outputBits_drainStep {s : State} (h : MicroStep.drain.Enabled s) :
    (drainStep s).outputBits = s.outputBits := by
  obtain ⟨hobuf, -⟩ := h
  have hbyte : toBits [regOf 8 (s.stream.obuf.take 8)] = s.stream.obuf.take 8 :=
    toBits_singleton (List.length_take_of_le hobuf)
  have hmoved : toBits (drainStep s).outFifo ++ (drainStep s).stream.obuf =
      toBits s.outFifo ++ s.stream.obuf := by
    rw [drainStep_outFifo, drainStep_stream, toBits_append, hbyte, List.append_assoc,
      List.take_append_drop]
  exact congrArg (· ++ transformBits _ _ _ s.inputBits) hmoved

/-- The block step moves the transform of the first block to `OBUF` (R462). -/
theorem outputBits_blockStep {s : State} (h : MicroStep.block.Enabled s) :
    (blockStep s).outputBits = s.outputBits := by
  obtain ⟨hibuf, -⟩ := h
  have hblk : (s.stream.ibuf.take (blockWidth s.ctrl.variant)).length = blockWidth s.ctrl.variant :=
    List.length_take_of_le hibuf
  rw [State.outputBits, State.outputBits, inputBits_blockStep s, transformBits_append hblk,
    ← List.append_assoc, List.append_assoc (toBits s.outFifo)]
  rfl

theorem modeDec_padStep (s : State) : (padStep s).stream.modeDec = s.stream.modeDec := by
  cases hmode : s.ctrl.padMode <;> simp [padStep, hmode]

theorem outputBits_microStep {m : MicroStep} {s : State} (h : m.Enabled s) :
    (microStep m s).outputBits = s.outputBits := by
  cases m with
  | drain => exact outputBits_drainStep h
  | block => exact outputBits_blockStep h
  | fill => exact outputBits_of_eq rfl rfl rfl rfl rfl (inputBits_fillStep h)
  | pad => exact outputBits_of_eq rfl (obuf_padStep s) rfl (modeDec_padStep s) rfl (inputBits_padStep h)
  | finish => rfl

/-! ### The input FIFO -/

theorem bytesLeft_le_microStep {m : MicroStep} {s : State} (h : s.stream.bytesLeft ≤ s.inFifo.length) :
    (microStep m s).stream.bytesLeft ≤ (microStep m s).inFifo.length := by
  cases m with
  | fill =>
    show s.stream.bytesLeft - 1 ≤ (s.inFifo.drop 1).length
    rw [List.length_drop]
    omega
  | pad => exact (bytesLeft_padStep s).trans_le h
  | _ => exact h

/-- The bytes beyond the message stay in the input FIFO (R455). -/
theorem drop_bytesLeft_microStep {m : MicroStep} {s : State} (h : m.Enabled s) :
    (microStep m s).inFifo.drop (microStep m s).stream.bytesLeft = s.inFifo.drop s.stream.bytesLeft := by
  cases m with
  | fill =>
    obtain ⟨-, hpos, -⟩ := h
    show (s.inFifo.drop 1).drop (s.stream.bytesLeft - 1) = _
    rw [List.drop_drop, Nat.add_sub_cancel' hpos]
  | pad => exact congrArg s.inFifo.drop (bytesLeft_padStep s)
  | _ => rfl

/-! ### The count of blocks -/

/-- `MSG_BLOCKS` when the blocks still to be formed are counted in (10_state.md R146). -/
def State.blocksInAll (s : State) : Word :=
  s.msgBlocks + BitVec.ofNat 32 (s.inputBits.length / blockWidth s.ctrl.variant)

theorem blocksInAll_of_eq {s t : State} (hblocks : t.msgBlocks = s.msgBlocks) (hctrl : t.ctrl = s.ctrl)
    (hinput : t.inputBits = s.inputBits) : t.blocksInAll = s.blocksInAll := by
  rw [State.blocksInAll, State.blocksInAll, hblocks, hctrl, hinput]

theorem blocksInAll_blockStep {s : State} (h : MicroStep.block.Enabled s) :
    (blockStep s).blocksInAll = s.blocksInAll := by
  obtain ⟨hibuf, -⟩ := h
  rw [State.blocksInAll, State.blocksInAll, inputBits_blockStep s, List.length_append,
    List.length_take_of_le hibuf, Nat.add_div_left _ (blockWidth_pos _), blockStep_msgBlocks,
    BitVec.add_assoc, Nat.add_comm (_ / _) 1, BitVec.ofNat_add]
  rfl

theorem blocksInAll_microStep {m : MicroStep} {s : State} (h : m.Enabled s) :
    (microStep m s).blocksInAll = s.blocksInAll := by
  cases m with
  | block => exact blocksInAll_blockStep h
  | fill => exact blocksInAll_of_eq rfl rfl (inputBits_fillStep h)
  | pad => exact blocksInAll_of_eq rfl rfl (inputBits_padStep h)
  | _ => rfl

/-! ### Together -/

/-- The state with what a micro-step may change blanked out: the stream, the FIFOs, `MSG_BLOCKS`, `DONE`. -/
def State.outsideStream (s : State) : State :=
  { s with stream := Stream.idle, inFifo := [], outFifo := [], msgBlocks := 0, done := false }

/-- What does not look at the blanked fields agrees where the rest does. -/
theorem eq_of_outsideStream {α : Type} (f : State → α) (hf : ∀ s : State, f s.outsideStream = f s)
    {s t : State} (h : t.outsideStream = s.outsideStream) : f t = f s := by
  rw [← hf t, h, hf s]

theorem outsideStream_microStep (m : MicroStep) (s : State) :
    (microStep m s).outsideStream = s.outsideStream := by cases m <;> rfl

/-- `t` runs the message that `s` runs: micro-steps lead from `s` to `t`. -/
structure SameMessage (s t : State) : Prop where
  outside : t.outsideStream = s.outsideStream
  output : t.outputBits = s.outputBits
  atHand : s.stream.bytesLeft ≤ s.inFifo.length → t.stream.bytesLeft ≤ t.inFifo.length
  beyond : t.inFifo.drop t.stream.bytesLeft = s.inFifo.drop s.stream.bytesLeft
  blocks : t.blocksInAll = s.blocksInAll
  counted : BlockCount s → BlockCount t

theorem sameMessage_refl (s : State) : SameMessage s s := ⟨rfl, rfl, id, rfl, rfl, id⟩

theorem SameMessage.trans {s t u : State} (h : SameMessage s t) (h' : SameMessage t u) :
    SameMessage s u where
  outside := h'.outside.trans h.outside
  output := h'.output.trans h.output
  atHand := h'.atHand ∘ h.atHand
  beyond := h'.beyond.trans h.beyond
  blocks := h'.blocks.trans h.blocks
  counted := h'.counted ∘ h.counted

theorem sameMessage_microStep {m : MicroStep} {s : State} (ha : s.stream.active = true)
    (h : m.Enabled s) : SameMessage s (microStep m s) where
  outside := outsideStream_microStep m s
  output := outputBits_microStep h
  atHand := bytesLeft_le_microStep
  beyond := drop_bytesLeft_microStep h
  blocks := blocksInAll_microStep h
  counted hcount := blockCount_microStep hcount ha h

theorem sameMessage_streamStep {s : State} (ha : s.stream.active = true) : SameMessage s (streamStep s) := by
  cases hm : s.nextMicroStep with
  | none => rw [streamStep_of_hold hm]; exact sameMessage_refl s
  | some m => rw [streamStep_of_next hm]; exact sameMessage_microStep ha (enabled_of_nextMicroStep hm)

/-- Settles O30: the engine's turn is a micro-step or a hold. -/
theorem microStepsKeepTheOutput : Obligations.MicroStepsKeepTheOutput := by
  intro s t _ ha hp hat hstep
  rw [step_facing_engine, engineStep_stream hp ha] at hstep
  obtain rfl : streamStep s = t := Host.Outcome.next.inj hstep
  have hsame := sameMessage_streamStep ha
  exact ⟨hsame.output, hsame.atHand hat,
    eq_of_outsideStream State.roundKeySeqs (fun _ => rfl) hsame.outside⟩

end Sys2Proof.Machine
end

section
/-! A served message runs to its end: while its input is at hand and its output has room no hold is possible, and
each micro-step but the finish step lowers the work left (41_chunker_stream.md R455, R466,
70_reset_and_hazards.md R921). -/

namespace Sys2Proof.Machine

/-! ### The work left -/

/-- A measure that every micro-step but the finish step lowers: a bit still to come passes through `IBUF` and
`OBUF`. -/
def State.workLeft (s : State) : Nat :=
  2 * s.bitsLeft + 8 * s.stream.bytesLeft + s.fillerLeft + s.stream.obuf.length

theorem fillerLeft_padStep_lt {s : State} (h : MicroStep.pad.Enabled s) :
    (padStep s).fillerLeft < s.fillerLeft := by
  obtain ⟨-, -, hpos⟩ := h
  cases hmode : s.ctrl.padMode with
  | byte =>
    rw [padStep_byte hmode]
    simp [State.fillerLeft, hmode, hpos]
  | bit =>
    rw [padStep_bit hmode]
    simp [State.fillerLeft, hmode, hpos]

theorem workLeft_microStep_lt {m : MicroStep} {s : State} (h : m.Enabled s) (hm : m ≠ .finish) :
    (microStep m s).workLeft < s.workLeft := by
  cases m with
  | drain =>
    obtain ⟨hobuf, -⟩ := h
    have hlen : (drainStep s).stream.obuf.length = s.stream.obuf.length - 8 := List.length_drop
    show 2 * s.bitsLeft + 8 * s.stream.bytesLeft + s.fillerLeft + (drainStep s).stream.obuf.length < _
    rw [hlen, State.workLeft]
    omega
  | block =>
    have hleft := bitsLeft_blockStep h
    have hlen := length_obuf_blockStep h
    have hwidth := blockWidth_pos s.ctrl.variant
    show 2 * (blockStep s).bitsLeft + 8 * s.stream.bytesLeft + s.fillerLeft +
      (blockStep s).stream.obuf.length < _
    rw [hlen, State.workLeft]
    omega
  | fill =>
    have hleft := bitsLeft_fillStep h
    obtain ⟨-, hpos, -⟩ := h
    show 2 * (fillStep s).bitsLeft + 8 * (s.stream.bytesLeft - 1) + s.fillerLeft +
      s.stream.obuf.length < _
    rw [hleft, State.workLeft]
    omega
  | pad =>
    have hleft := bitsLeft_padStep h
    have hfiller := fillerLeft_padStep_lt h
    rw [microStep, State.workLeft, State.workLeft, hleft, bytesLeft_padStep, obuf_padStep]
    omega
  | finish => exact absurd rfl hm

/-! ### No hold -/

/-- A running message whose remaining bytes are at hand and whose whole output has room, with the engine on turn. -/
structure Served (s : State) : Prop where
  bounds : StreamBounds s
  active : s.stream.active = true
  pending : s.pending = none
  agenda : s.agenda = []
  atHand : s.stream.bytesLeft ≤ s.inFifo.length
  room : s.outputBits.length ≤ 8 * s.params.outDepth

/-- Neither case of a hold can occur (R467). -/
theorem Served.nextMicroStep {s : State} (h : Served s) : ∃ m, s.nextMicroStep = some m := by
  cases hm : s.nextMicroStep with
  | some m => exact ⟨m, rfl⟩
  | none =>
    exfalso
    cases holdCase_of_hold h.bounds hm with
    | room hobuf hfull =>
      have hroom := h.room
      simp only [State.outputBits, List.length_append, length_toBits] at hroom
      omega
    | input hobuf hibuf hbytes hin =>
      have hat := h.atHand
      rw [hin, List.length_nil] at hat
      omega

theorem Served.microStep {m : MicroStep} {s : State} (h : Served s) (hm : m.Enabled s) (hne : m ≠ .finish) :
    Served (microStep m s) :=
  have hsame := sameMessage_microStep h.active hm
  { bounds := streamBounds_microStep h.bounds hm
    active := (microStep_active hne s).trans h.active
    pending := (microStep_pending m s).trans h.pending
    agenda := (eq_of_outsideStream State.agenda (fun _ => rfl) hsame.outside).trans h.agenda
    atHand := hsame.atHand h.atHand
    room := by
      rw [hsame.output, eq_of_outsideStream State.params (fun _ => rfl) hsame.outside]
      exact h.room }

/-! ### The run -/

theorem step_of_served {m : MicroStep} {s : State} (h : Served s) (hm : s.nextMicroStep = some m) :
    step s = .next (microStep m s) := by
  rw [step_of_no_agenda h.agenda, engineStep_stream h.pending h.active, streamStep_of_next hm]

/-- The engine alone brings a served message to its finish step, by induction on the work left. -/
theorem served_run {s : State} (h : Served s) : ∃ (n : Nat) (t : State),
    Host.Core.run Sys2Proof.core n s = .next (finishStep t) ∧ Served t ∧ MicroStep.finish.Enabled t ∧
      SameMessage s t := by
  induction hwork : s.workLeft using Nat.strong_induction_on generalizing s with
  | _ work ih =>
    obtain ⟨m, hnext⟩ := h.nextMicroStep
    have hm := enabled_of_nextMicroStep hnext
    have hstep : Sys2Proof.core.step s = .next (microStep m s) := step_of_served h hnext
    by_cases hfinish : m = .finish
    · subst hfinish
      exact ⟨1, s, run_succ_of_next hstep, h, hm, sameMessage_refl s⟩
    · have hlt := workLeft_microStep_lt hm hfinish
      obtain ⟨n, t, hrun, hserved, hend, hsame⟩ := ih _ (hwork ▸ hlt) (h.microStep hm hfinish) rfl
      exact ⟨n + 1, t, (run_succ_of_next hstep).trans hrun, hserved, hend,
        (sameMessage_microStep h.active hm).trans hsame⟩

/-! ### The finished message -/

theorem inputBits_of_finish {s : State} (h : MicroStep.finish.Enabled s) : s.inputBits = [] := by
  obtain ⟨hibuf, hbytes, hpad, -⟩ := h
  cases hmode : s.ctrl.padMode <;>
    simp [State.inputBits, State.fillerBits, hmode, List.length_eq_zero_iff.mp hibuf, hbytes, hpad]

theorem outputBits_of_finish {s : State} (h : MicroStep.finish.Enabled s) :
    s.outputBits = toBits s.outFifo := by
  have hinput := inputBits_of_finish h
  obtain ⟨-, -, -, hobuf⟩ := h
  simp [State.outputBits, hinput, transformBits_nil, List.length_eq_zero_iff.mp hobuf]

theorem drop_bytesLeft_of_finish {s : State} (h : MicroStep.finish.Enabled s) :
    s.inFifo.drop s.stream.bytesLeft = s.inFifo := by
  obtain ⟨-, hbytes, -⟩ := h
  rw [hbytes, List.drop_zero]

theorem blocksInAll_of_finish {s : State} (h : MicroStep.finish.Enabled s) :
    s.blocksInAll = s.msgBlocks := by
  simp [State.blocksInAll, inputBits_of_finish h]

/-- The transform keeps the length, so the whole output is as long as what is to leave the stream. -/
theorem length_outputBits {s : State} (h : StreamBounds s) (hat : s.stream.bytesLeft ≤ s.inFifo.length) :
    s.outputBits.length = 8 * s.outFifo.length + s.stream.obuf.length + s.inputBits.length := by
  have haligned : s.inputBits.length % blockWidth s.ctrl.variant = 0 := by
    rw [length_inputBits hat]
    exact h.aligned
  simp [State.outputBits, length_toBits, length_transformBits _ _ haligned, Nat.add_assoc]

/-- Settles O31: the run ends with the finish step, and the micro-steps have kept the message. -/
theorem servedMessageFinishes : Obligations.ServedMessageFinishes := by
  intro s hinv ha hp hagenda hat hroom
  have hbounds := streamBounds_of_inv hinv ha
  have hlen := length_outputBits hbounds hat
  obtain ⟨n, t, hrun, hserved, hend, hsame⟩ := served_run ⟨hbounds, ha, hp, hagenda, hat, hlen ▸ hroom⟩
  have hout : toBits t.outFifo = s.outputBits := (outputBits_of_finish hend).symm.trans hsame.output
  have herror : t.error = s.error := eq_of_outsideStream State.error (fun _ => rfl) hsame.outside
  refine ⟨n, finishStep t, hrun, ?_, rfl, herror, hout, ?_, ?_, ?_, fun hcount => ?_⟩
  · simp [State.busy, hserved.pending]
  · exact (drop_bytesLeft_of_finish hend).symm.trans hsame.beyond
  · rw [finishStep_outFifo, ← length_toBits, hout, hlen]
  · exact (blocksInAll_of_finish hend).symm.trans hsame.blocks
  · have hblocks := toNat_msgBlocks_of_finish (hsame.counted hcount) hserved.active hend
    rwa [eq_of_outsideStream State.messageBits (fun _ => rfl) hsame.outside,
      eq_of_outsideStream State.ctrl (fun _ => rfl) hsame.outside] at hblocks

end Sys2Proof.Machine
end

section
/-! The round trip: a message run from its command to its end, first in one direction and then in the other
(41_chunker_stream.md R475). -/

namespace Sys2Proof.Machine

/-! ### The filler as bytes -/

/-- The filler of `pad` units as the bytes it makes (R452, R475). -/
def fillerBytes (c : Ctrl) (pad : Nat) : List Byte :=
  match c.padMode with
  | .byte => List.replicate pad c.padByte
  | .bit => List.replicate (pad / 8) (if c.padBit then 0xFF else 0x00)

theorem fillerBytes_zero (c : Ctrl) : fillerBytes c 0 = [] := by
  cases hm : c.padMode <;> simp [fillerBytes, hm]

/-- Equal filler bits make bytes `0x00` or `0xFF`. -/
theorem toBits_replicate_bit (b : Bool) (n : Nat) :
    toBits (List.replicate n (if b then 0xFF else 0x00)) = List.replicate (8 * n) b := by
  have hbyte : seqOf 8 (if b then 0xFF else 0x00 : Byte) = List.replicate 8 b := by cases b <;> decide
  induction n with
  | zero => rfl
  | succ n ih =>
    rw [List.replicate_succ, toBits_cons, ih, hbyte, List.replicate_append_replicate, Nat.mul_succ,
      Nat.add_comm]

/-- The filler of a message whose padding ends on a byte (R453, R463). -/
theorem toBits_fillerBytes {s : State} (dec : Bool) (hcheck : (padCheck s).1 = false) :
    toBits (fillerBytes s.ctrl s.padFor) = (startMessage dec s).fillerBits := by
  have hwhole := fillerLeft_startMessage_mod dec hcheck
  cases hm : s.ctrl.padMode with
  | byte => simp [fillerBytes, State.fillerBits, hm]
  | bit =>
    have hmod : s.padFor % 8 = 0 := by simpa [State.fillerLeft, hm] using hwhole
    simp only [fillerBytes, State.fillerBits, startMessage_ctrl, startMessage_stream, hm]
    rw [toBits_replicate_bit, Nat.mul_div_cancel' (Nat.dvd_of_mod_eq_zero hmod)]

/-- The message and its filler, as bytes. -/
def State.paddedMessage (s : State) : List Byte := s.inFifo ++ fillerBytes s.ctrl s.padFor

/-! ### A whole message in the input FIFO -/

/-- A message command is pending, the engine is on turn, the input FIFO holds exactly the message, and the empty
output FIFO has room for all its output. -/
structure Ready (dec : Bool) (s : State) : Prop where
  pending : s.pending = some (encode (messageCommand dec))
  agenda : s.agenda = []
  keyValid : s.keyValid = true
  fits : paddingFits s.ctrl.variant s.ctrl.padMode s.msgLen.toNat
  input : s.msgLen.toNat = s.inFifo.length
  output : s.outFifo = []
  room : s.paddedMessage.length ≤ s.params.outDepth

theorem Ready.inputBits {dec : Bool} {s : State} (h : Ready dec s) :
    (startMessage dec s).inputBits = toBits s.paddedMessage := by
  rw [State.inputBits, ← toBits_fillerBytes dec (padCheck_of_fits h.fits), State.paddedMessage,
    toBits_append]
  simp [h.input]

theorem Ready.atHand {dec : Bool} {s : State} (h : Ready dec s) :
    (startMessage dec s).stream.bytesLeft ≤ (startMessage dec s).inFifo.length := h.input.le

theorem Ready.bounds {dec : Bool} {s : State} (h : Ready dec s) : StreamBounds (startMessage dec s) :=
  streamBounds_startMessage dec (padCheck_of_fits h.fits)

/-- The padded message is a whole number of blocks (R453). -/
theorem Ready.aligned {dec : Bool} {s : State} (h : Ready dec s) :
    (8 * s.paddedMessage.length) % blockWidth s.ctrl.variant = 0 := by
  rw [← length_toBits, ← h.inputBits, length_inputBits h.atHand]
  exact h.bounds.aligned

theorem Ready.outputBits {dec : Bool} {s : State} (h : Ready dec s) :
    (startMessage dec s).outputBits =
      transformBits s.ctrl.variant dec s.roundKeySeqs (toBits s.paddedMessage) := by
  rw [State.outputBits, h.inputBits, startMessage_outFifo, h.output]
  rfl

theorem Ready.served {dec : Bool} {s : State} (h : Ready dec s) : Served (startMessage dec s) where
  bounds := h.bounds
  active := rfl
  pending := rfl
  agenda := h.agenda
  atHand := h.atHand
  room := by
    rw [length_outputBits h.bounds h.atHand, h.inputBits, length_toBits, startMessage_outFifo, h.output]
    have hroom := h.room
    simp
    omega

theorem step_of_ready {dec : Bool} {s : State} (h : Ready dec s) :
    step s = .next (startMessage dec s) := by
  have hd : decode (encode (messageCommand dec)) = .command (messageCommand dec) := by
    cases dec <;> decide
  rw [step_of_no_agenda h.agenda, engineStep_of_pending h.pending, runWord_of_command hd]
  exact exec_messageCommand dec h.keyValid h.fits

/-- The message that stood ready in `s` has run to its end in `t`: its transform is in the output FIFO, and outside
the stream the state is the one in which the message started. -/
structure RanTo (dec : Bool) (s t : State) : Prop where
  busy : t.busy = false
  output : toBits t.outFifo = transformBits s.ctrl.variant dec s.roundKeySeqs (toBits s.paddedMessage)
  outside : t.outsideStream = (startMessage dec s).outsideStream

theorem ready_run {dec : Bool} {s : State} (h : Ready dec s) :
    ∃ (n : Nat) (t : State), Host.Core.run Sys2Proof.core n s = .next t ∧ RanTo dec s t := by
  obtain ⟨n, t, hrun, hserved, hend, hsame⟩ := served_run h.served
  have hstep : Sys2Proof.core.step s = .next (startMessage dec s) := step_of_ready h
  refine ⟨n + 1, finishStep t, (run_succ_of_next hstep).trans hrun, ?_, ?_, hsame.outside⟩
  · simp [State.busy, hserved.pending]
  · rw [finishStep_outFifo, ← outputBits_of_finish hend, hsame.output, h.outputBits]

/-- What neither the start of a message nor its run changes. -/
theorem RanTo.keeps {α : Type} {dec : Bool} {s t : State} (h : RanTo dec s t) (f : State → α)
    (hf : ∀ s : State, f s.outsideStream = f s) (hstart : f (startMessage dec s) = f s) : f t = f s :=
  (eq_of_outsideStream f hf h.outside).trans hstart

theorem RanTo.ctrl {dec : Bool} {s t : State} (h : RanTo dec s t) : t.ctrl = s.ctrl :=
  h.keeps State.ctrl (fun _ => rfl) rfl

theorem RanTo.roundKeySeqs {dec : Bool} {s t : State} (h : RanTo dec s t) :
    t.roundKeySeqs = s.roundKeySeqs :=
  h.keeps State.roundKeySeqs (fun _ => rfl) rfl

/-- The transform keeps the number of bytes. -/
theorem RanTo.length {dec : Bool} {s t : State} (h : RanTo dec s t) (hready : Ready dec s) :
    t.outFifo.length = s.paddedMessage.length := by
  have hlen := congrArg List.length h.output
  rw [length_transformBits _ _ (by rw [length_toBits]; exact hready.aligned), length_toBits,
    length_toBits] at hlen
  omega

theorem RanTo.aligned {dec : Bool} {s t : State} (h : RanTo dec s t) (hready : Ready dec s) :
    (8 * t.outFifo.length) % blockWidth t.ctrl.variant = 0 := by
  rw [h.length hready, h.ctrl]
  exact hready.aligned

/-! ### There and back -/

theorem paddingFits_of_aligned {v : Variant} {n : Nat} (m : PadMode) (h : (8 * n) % blockWidth v = 0) :
    paddingFits v m n := by
  rintro ⟨rfl, -, hn⟩
  simp only [blockWidth, halfWidth] at h
  omega

/-- The state in which the decryption of the bytes in the output FIFO starts. -/
def State.turnedAround (s : State) : State :=
  { s with
    pending := some (encode .msgd), msgLen := BitVec.ofNat 32 s.outFifo.length, inFifo := s.outFifo,
    outFifo := [] }

theorem toNat_msgLen_turnedAround {s : State} (h : s.outFifo.length < 2 ^ 32) :
    s.turnedAround.msgLen.toNat = s.outFifo.length := by
  rw [State.turnedAround, BitVec.toNat_ofNat, Nat.mod_eq_of_lt h]

/-- An aligned message gets no filler on the way back (R454). -/
theorem padFor_turnedAround {s : State} (h32 : s.outFifo.length < 2 ^ 32)
    (haligned : (8 * s.outFifo.length) % blockWidth s.ctrl.variant = 0) : s.turnedAround.padFor = 0 := by
  rw [padFor_eq, toNat_msgLen_turnedAround h32]
  exact paddingUnits_of_aligned _ haligned

theorem paddedMessage_turnedAround {s : State} (h32 : s.outFifo.length < 2 ^ 32)
    (haligned : (8 * s.outFifo.length) % blockWidth s.ctrl.variant = 0) :
    s.turnedAround.paddedMessage = s.outFifo := by
  rw [State.paddedMessage, padFor_turnedAround h32 haligned, fillerBytes_zero, List.append_nil]
  rfl

/-- The output of a message that has run is a message ready for the way back. -/
theorem RanTo.ready_turnedAround {dec : Bool} {s t : State} (h : RanTo dec s t) (hready : Ready dec s)
    (h32 : t.outFifo.length < 2 ^ 32) : Ready true t.turnedAround where
  pending := rfl
  agenda := (h.keeps State.agenda (fun _ => rfl) rfl).trans hready.agenda
  keyValid := (h.keeps State.keyValid (fun _ => rfl) rfl).trans hready.keyValid
  fits := by
    rw [toNat_msgLen_turnedAround h32]
    exact paddingFits_of_aligned _ (h.aligned hready)
  input := toNat_msgLen_turnedAround h32
  output := rfl
  room := by
    have hparams : t.turnedAround.params = s.params := h.keeps State.params (fun _ => rfl) rfl
    rw [paddedMessage_turnedAround h32 (h.aligned hready), h.length hready, hparams]
    exact hready.room

theorem toBits_injective {m k : List Byte} (h : toBits m = toBits k) : m = k := by
  rw [← fromBits_toBits m, h, fromBits_toBits]

/-- The way back gives the message and its filler: under the same round keys the second transform undoes the
first (R475). -/
theorem outFifo_of_roundTrip {s t u : State} (hready : Ready false s) (h : RanTo false s t)
    (h32 : t.outFifo.length < 2 ^ 32) (hback : RanTo true t.turnedAround u) :
    u.outFifo = s.paddedMessage := by
  have hctrl : t.turnedAround.ctrl = s.ctrl := h.ctrl
  have hkeys : t.turnedAround.roundKeySeqs = s.roundKeySeqs := h.roundKeySeqs
  have haligned : (toBits s.paddedMessage).length % blockWidth s.ctrl.variant = 0 := by
    rw [length_toBits]
    exact hready.aligned
  apply toBits_injective
  calc toBits u.outFifo
      = transformBits s.ctrl.variant true s.roundKeySeqs (toBits t.outFifo) := by
        rw [hback.output, paddedMessage_turnedAround h32 (h.aligned hready), hctrl, hkeys]
    _ = transformBits s.ctrl.variant true s.roundKeySeqs
          (transformBits s.ctrl.variant false s.roundKeySeqs (toBits s.paddedMessage)) := by rw [h.output]
    _ = toBits s.paddedMessage := transformBits_transformBits false s.roundKeySeqs haligned

/-- The way back has no filler, so it leaves `MSG_PAD = 0` (R454). -/
theorem msgPad_of_roundTrip {s t u : State} (hready : Ready false s) (h : RanTo false s t)
    (h32 : t.outFifo.length < 2 ^ 32) (hback : RanTo true t.turnedAround u) : u.msgPad = 0 := by
  have hmsgPad : u.msgPad = (startMessage true t.turnedAround).msgPad :=
    eq_of_outsideStream State.msgPad (fun _ => rfl) hback.outside
  rw [hmsgPad, startMessage_msgPad, padFor_turnedAround h32 (h.aligned hready)]
  rfl

/-- Settles O32: the message is ready, so it runs; its output is ready for the way back, which undoes it. -/
theorem streamRoundTrip : Obligations.StreamRoundTrip := by
  intro s m _ _ hagenda hkey hin hout hlen hfits pad filler hroom h32
  have hpad : s.padFor = pad := by rw [padFor_eq, hlen]
  have hpadded : s.paddedMessage = m ++ filler := by rw [State.paddedMessage, hin, hpad]; rfl
  have hcount : s.paddedMessage.length = m.length + filler.length := by rw [hpadded, List.length_append]
  have hready : Ready false { s with pending := some (encode .msge) } :=
    { pending := rfl
      agenda := hagenda
      keyValid := hkey
      fits := hlen ▸ hfits
      input := hlen.trans (congrArg List.length hin.symm)
      output := hout
      room := hcount.trans_le hroom }
  obtain ⟨n₁, s₁, hrun₁, hran₁⟩ := ready_run hready
  have hcount₁ : s₁.outFifo.length = m.length + filler.length := (hran₁.length hready).trans hcount
  have hlt : s₁.outFifo.length < 2 ^ 32 := hcount₁.trans_lt h32
  obtain ⟨n₂, s₂, hrun₂, hran₂⟩ := ready_run (hran₁.ready_turnedAround hready hlt)
  exact ⟨n₁, s₁, hrun₁, hran₁.busy, hcount₁, n₂, s₂, hrun₂, hran₂.busy,
    (outFifo_of_roundTrip hready hran₁ hlt hran₂).trans hpadded,
    msgPad_of_roundTrip hready hran₁ hlt hran₂⟩

end Sys2Proof.Machine
end

section
/-! The fixed permutation tables, and the command `PERM` that applies one of them or the user table to `BV`
(42_permutation.md). -/

namespace Sys2Proof.Machine

/-! ### The fixed tables -/

/-- Every entry of a fixed table names an input bit (42_permutation.md R511). -/
theorem lt_of_mem_fixedTable {t width : Nat} {table : List Nat}
    (h : fixedTable t = some (width, table)) : ∀ e ∈ table, e < width := by
  unfold fixedTable at h
  split at h <;> cases h <;> decide

/-- Where every entry is an input position, a table is a bijection when it has one entry for each position and
repeats none. -/
theorem perm_range_iff {l : List Nat} {n : Nat} (h : ∀ e ∈ l, e < n) :
    l.Perm (List.range n) ↔ l.length = n ∧ l.Nodup := by
  constructor
  · intro hp
    exact ⟨by simpa using hp.length_eq, hp.nodup_iff.mpr List.nodup_range⟩
  · intro ⟨hlen, hnodup⟩
    have hsub : l.Subperm (List.range n) :=
      List.subperm_of_subset hnodup fun e he => List.mem_range.mpr (h e he)
    exact hsub.perm_of_length_le (by simp [hlen])

/-- The fixed tables that have as many entries as input bits and repeat none are IP, FP, P, TP and TPC1
(42_permutation.md R511). -/
theorem fixedTable_length_nodup_iff {t width : Nat} {table : List Nat}
    (h : fixedTable t = some (width, table)) :
    (table.length = width ∧ table.Nodup) ↔ t ∈ [0, 1, 3, 7, 8] := by
  unfold fixedTable at h
  split at h <;> cases h <;> decide

/-- Settles O18: IP and FP undo each other, and a fixed table's entries are in range, so it is a bijection when
it has the right length and no repetition. -/
theorem fixedTableProperties : Obligations.FixedTableProperties :=
  ⟨fun _ hx => ⟨applyTable_IP_FP hx, applyTable_FP_IP hx⟩,
    fun _ _ _ h => lt_of_mem_fixedTable h,
    fun _ _ _ h => (perm_range_iff (lt_of_mem_fixedTable h)).trans (fixedTable_length_nodup_iff h)⟩

/-! ### The table and the shape check of `PERM` -/

/-- The id of the user table names no fixed table (30_encoding.md R304). -/
theorem ne_fifteen_of_fixedTable {t : Nat} {entry : Nat × List Nat} (h : fixedTable t = some entry) :
    t ≠ 15 := by
  rintro rfl
  cases h

theorem permTable_of_fixedTable {s : State} {t width : Nat} {table : List Nat}
    (h : fixedTable t = some (width, table)) : s.permTable t = some table := by
  rw [State.permTable, if_neg (ne_fifteen_of_fixedTable h), h]
  rfl

theorem permShapeOk_of_fixedTable {s : State} {t width : Nat} {table : List Nat}
    (h : fixedTable t = some (width, table)) (hwidth : s.bvLen.toNat = width) :
    s.permShapeOk t = true := by
  simp [State.permShapeOk, ne_fifteen_of_fixedTable h, h, hwidth]

theorem permTable_user (s : State) : s.permTable 15 = some s.userTable := rfl

theorem permShapeOk_of_userTable {s : State} (h : ∀ u ∈ s.userTable, u < s.bvLen.toNat) :
    s.permShapeOk 15 = true := by
  rw [permShapeOk_user]
  exact decide_eq_true (List.forall_mem_map.mp h)

/-- The user table is the list of the first `UTAB_LEN` entries of `UTAB` (42_permutation.md R512). -/
theorem userTable_eq {s : State} {table : List Nat} (h64 : s.utabLen.toNat ≤ 64)
    (hlen : table.length = s.utabLen.toNat)
    (hentry : ∀ j < table.length, table[j]? = (s.utab[j]?).map BitVec.toNat) : s.userTable = table := by
  have hlen' : s.userTable.length = table.length := by simp [State.userTable, hlen, h64]
  apply List.ext_getElem?
  intro j
  by_cases hj : j < table.length
  · have hin : j < s.utabLen.toNat := hlen ▸ hj
    rw [hentry j hj]
    simp [State.userTable, hin]
  · rw [List.getElem?_eq_none (by omega), List.getElem?_eq_none (by omega)]

/-! ### The command -/

/-- `PERM t` passes its checks and applies the table that `t` names (42_permutation.md R515). -/
theorem exec_perm {s : State} {t : Nat} {table : List Nat} (htable : s.permTable t = some table)
    (hshape : s.permShapeOk t = true) :
    exec (.perm t) s = .next (complete (writeRes (applyTable s.bvSeq table) s)) := by
  rw [exec_of_passes (by simp [checksOf, htable, hshape]), success, permEffect, htable]
  rfl

/-- Bit `j` of the result is bit `table[j]` of `BV`, where every entry lies in the operand (00_scope.md R13). -/
theorem getLsbD_regOf_applyTable_bvSeq {s : State} {table : List Nat}
    (hin : ∀ u ∈ table, u < s.bvLen.toNat) {j : Nat} (h64 : j < 64) :
    (regOf 64 (applyTable s.bvSeq table)).getLsbD j =
      (decide (j < table.length) && s.bv.getLsbD (table.getD j 0)) := by
  rw [getLsbD_regOf, getD_applyTable, State.bvSeq, getD_seqOf, decide_eq_true h64, Bool.true_and]
  by_cases hj : j < table.length
  · have hmem : table.getD j 0 ∈ table := by
      rw [List.getD_eq_getElem _ _ hj]
      exact List.getElem_mem hj
    rw [decide_eq_true (hin _ hmem), Bool.true_and]
  · rw [decide_eq_false hj, Bool.false_and, Bool.false_and]

/-- Settles O17: in either case `PERM` finds the table, its shape check passes, and every entry lies in the
operand. -/
theorem permAppliesTheTable : Obligations.PermAppliesTheTable := by
  intro s t table hcase
  have hready : s.permTable t = some table ∧ s.permShapeOk t = true ∧ ∀ u ∈ table, u < s.bvLen.toNat := by
    rcases hcase with ⟨width, hfixed, hwidth⟩ | ⟨rfl, h64, hlen, hentry, hin⟩
    · exact ⟨permTable_of_fixedTable hfixed, permShapeOk_of_fixedTable hfixed hwidth,
        hwidth ▸ lt_of_mem_fixedTable hfixed⟩
    · obtain rfl := userTable_eq h64 hlen hentry
      exact ⟨permTable_user s, permShapeOk_of_userTable hin, hin⟩
  obtain ⟨htable, hshape, hin⟩ := hready
  refine ⟨regOf 64 (applyTable s.bvSeq table), ?_, fun j hj => getLsbD_regOf_applyTable_bvSeq hin hj⟩
  rw [exec_perm htable hshape, ← length_applyTable s.bvSeq table]
  rfl

end Sys2Proof.Machine
end

section
/-! The command `SBOX`, which looks up one box of the current bank for `BV` (43_sbox.md). -/

namespace Sys2Proof.Machine

/-! ### The entry that a box input selects -/

/-- The entry of box `k` that an input with elements `z` selects: row and column read off the single elements
(43_sbox.md R552, R556). -/
def selectedEntry (v : Variant) (k : Nat) (z : Nat → Nat) : Nat :=
  match v with
  | .full => sboxEntry .full k (2 * z 0 + z 5) (8 * z 1 + 4 * z 2 + 2 * z 3 + z 4)
  | .toy => sboxEntry .toy k (z 0) (4 * z 1 + 2 * z 2 + z 3)

/-- Only the elements within the box's input width select. -/
theorem selectedEntry_congr {v : Variant} (k : Nat) {y z : Nat → Nat} (h : ∀ m < boxIn v, y m = z m) :
    selectedEntry v k y = selectedEntry v k z := by
  cases v <;> simp (disch := decide) only [selectedEntry, h]

theorem sboxCol_full {x : Bits} (h : x.length = 6) :
    sboxCol .full x = 8 * (x.getD 1 false).toNat + 4 * (x.getD 2 false).toNat +
      2 * (x.getD 3 false).toNat + (x.getD 4 false).toNat := by
  match x, h with
  | [_, _, _, _, _, _], _ =>
    simp only [sboxCol, msbnum, List.drop, List.take, List.foldl, List.getD_cons_succ, List.getD_cons_zero]
    omega

theorem sboxCol_toy {x : Bits} (h : x.length = 4) :
    sboxCol .toy x = 4 * (x.getD 1 false).toNat + 2 * (x.getD 2 false).toNat +
      (x.getD 3 false).toNat := by
  match x, h with
  | [_, _, _, _], _ =>
    simp only [sboxCol, msbnum, List.drop, List.take, List.foldl, List.getD_cons_succ, List.getD_cons_zero]
    omega

/-- The row and column of a box input are those its single elements give (43_sbox.md R552). -/
theorem sboxEntry_row_col {v : Variant} (k : Nat) {x : Bits} (h : x.length = boxIn v) :
    sboxEntry v k (sboxRow v x) (sboxCol v x) = selectedEntry v k fun m => (x.getD m false).toNat := by
  cases v with
  | full => rw [sboxCol_full h]; rfl
  | toy => rw [sboxCol_toy h]; rfl

/-- Element `j` of a box's output, from the single elements of its input (43_sbox.md R554, R555). -/
theorem getD_substitute_eq_selectedEntry {v : Variant} (k : Nat) {x : Bits} (h : x.length = boxIn v)
    (j : Nat) :
    (substitute v k x).getD j false =
      (decide (j < boxOut v) &&
        (selectedEntry v k fun m => (x.getD m false).toNat).testBit (boxOut v - 1 - j)) := by
  by_cases hj : j < boxOut v
  · rw [getD_substitute v k x hj, sboxEntry_row_col k h, decide_eq_true hj, Bool.true_and]
  · rw [List.getD_eq_default _ _ (by simpa using hj), decide_eq_false hj, Bool.false_and]

/-! ### The command -/

/-- `SBOX k` passes its checks and substitutes the operand (43_sbox.md R560). -/
theorem exec_sbox {s : State} {k : Nat} (hk : k < boxCount s.ctrl.variant)
    (hlen : s.bvLen.toNat = boxIn s.ctrl.variant) :
    exec (.sbox k) s = .next (complete (sboxEffect k s)) :=
  exec_of_passes (by simp [checksOf, hk, hlen])

/-- Bit `j` of the result, from the bits of the operand's register (43_sbox.md R556). -/
theorem getLsbD_regOf_substitute_seqOf (v : Variant) (k : Nat) (bv : BitVec 64) {j : Nat} (h64 : j < 64) :
    (regOf 64 (substitute v k (seqOf (boxIn v) bv))).getLsbD j =
      (decide (j < boxOut v) &&
        (selectedEntry v k fun m => (bv.getLsbD m).toNat).testBit (boxOut v - 1 - j)) := by
  have hentry : (selectedEntry v k fun m => ((seqOf (boxIn v) bv).getD m false).toNat) =
      selectedEntry v k fun m => (bv.getLsbD m).toNat :=
    selectedEntry_congr k fun m hm => by rw [getD_seqOf, decide_eq_true hm, Bool.true_and]
  rw [getLsbD_regOf, getD_substitute_eq_selectedEntry k (length_seqOf _ _), hentry, decide_eq_true h64,
    Bool.true_and]

/-- Settles O19: the checks pass, and `RES` is the register form of the box's output. -/
theorem sboxLooksUpTheEntry : Obligations.SboxLooksUpTheEntry := by
  intro s k hk hlen z entry
  refine ⟨regOf 64 (substitute s.ctrl.variant k (seqOf (boxIn s.ctrl.variant) s.bv)), ?_,
    fun j hj => getLsbD_regOf_substitute_seqOf s.ctrl.variant k s.bv hj⟩
  rw [exec_sbox hk hlen,
    ← length_substitute s.ctrl.variant k (seqOf (boxIn s.ctrl.variant) s.bv)]
  rfl

end Sys2Proof.Machine
end

section
/-! The command `KEXP`: the round keys of each variant's schedule, bit by bit, and what else reaches the round-key
file (44_key_schedule.md). -/

namespace Sys2Proof.Machine

/-! ### The command -/

/-- `KEXP` passes its checks and writes the round-key file (44_key_schedule.md R600, R605). -/
theorem exec_kexp {s : State} (hlow : 1 ≤ s.rounds) (hhigh : s.rounds ≤ 16)
    (hlen : rawKeyWidth s.ctrl.variant ≤ s.keyLen.toNat) :
    exec .kexp s = .next { s with
      rkf := s.derivedKeys, keyValid := true, pending := none, done := true } :=
  exec_of_passes (by simp [checksOf, hlow, hhigh, hlen])

/-- Entry `i` is the register form of round key `i + 1`; past the last round key it is 0, the register form of
the empty sequence (44_key_schedule.md R605). -/
theorem getElem_roundKeyFile (rk : List Bits) {i : Nat} (h : i < 16) :
    (roundKeyFile rk)[i] = regOf 48 (rk.getD i []) := by
  rw [roundKeyFile, Vector.getElem_ofFn, List.getD]
  cases rk[i]? <;> rfl

/-! ### The Toy schedule -/

/-- Rotating the sequence left is rotating the register right: both move towards element 0 (00_scope.md R10,
R12). -/
theorem rotl_seqOf {w : Nat} (x : BitVec w) (k : Nat) :
    rotl (seqOf w x) k = seqOf w (x.rotateRight k) := by
  apply bits_ext (by simp)
  intro j hj
  replace hj : j < w := by simpa using hj
  have hmod (a : Nat) : a % w < w := Nat.mod_lt a (by omega)
  have hk := hmod k
  simp only [getD_rotl, getD_seqOf, length_seqOf, BitVec.getLsbD_rotateRight, hj, hmod, decide_true,
    Bool.true_and, Bool.cond_decide]
  rw [Nat.add_mod, Nat.mod_eq_of_lt hj]
  split
  · next hwrap => rw [Nat.mod_eq_of_lt (by omega), Nat.add_comm]
  · next hwrap => rw [Nat.mod_eq_sub_mod (by omega), Nat.mod_eq_of_lt (by omega)]; congr 1; omega

/-- The first `m` elements, selected through the table `[0, ..., m - 1]` (00_scope.md R13). -/
theorem applyTable_seqOf_range {w n m : Nat} (x : BitVec w) (h : m ≤ n) :
    applyTable (seqOf n x) (List.range m) = seqOf m x := by
  refine List.map_congr_left fun j hj => ?_
  have hjn : j < n := (List.mem_range.mp hj).trans_le h
  rw [getD_seqOf, decide_eq_true hjn, Bool.true_and]

/-- The low `n` bits of a register, written to a register of width `m` (00_scope.md R10). -/
theorem regOf_seqOf {w : Nat} (m n : Nat) (x : BitVec w) :
    regOf m (seqOf n x) = (x.setWidth n).setWidth m := by
  apply BitVec.eq_of_toNat_eq
  simp [regOf, val_seqOf]

/-- The Toy round key of the key rotated by `turn` (44_key_schedule.md R604). -/
def toyRoundKey (k : Bits) (turn : Nat) : Bits := applyTable (rotl (applyTable k tableTPC1) turn) tableTPC2

theorem getD_toySchedule (r1Shift : Nat) (k : Bits) (n i : Nat) :
    (toySchedule r1Shift k n).getD i [] = if i < n then toyRoundKey k (r1Shift + i) else [] := by
  rw [toySchedule, List.getD, List.getElem?_map]
  split
  · next h => rw [List.getElem?_range h]; rfl
  · next h => rw [List.getElem?_eq_none (by simpa using h)]; rfl

/-- TPC1 and TPC2 select the first 9 and the first 8 elements, so a Toy round key is the low 8 bits of the rotated
9-bit key (44_key_schedule.md R604, R607). -/
theorem toyRoundKey_seqOf (key : BitVec 64) (turn : Nat) :
    toyRoundKey (seqOf 9 key) turn = seqOf 8 ((key.setWidth 9).rotateRight turn) := by
  have hkey : seqOf 9 key = seqOf 9 (key.setWidth 9) := by
    refine List.map_congr_left fun j hj => ?_
    rw [BitVec.getLsbD_setWidth, decide_eq_true (List.mem_range.mp hj), Bool.true_and]
  calc toyRoundKey (seqOf 9 key) turn
      = applyTable (rotl (applyTable (seqOf 9 key) (List.range 9)) turn) (List.range 8) := rfl
    _ = applyTable (rotl (seqOf 9 (key.setWidth 9)) turn) (List.range 8) := by
        rw [applyTable_seqOf_range key le_rfl, hkey]
    _ = seqOf 8 ((key.setWidth 9).rotateRight turn) := by
        rw [rotl_seqOf, applyTable_seqOf_range _ (by decide)]

/-- Settles O11: the entries are the register forms of the Toy schedule's round keys. -/
theorem kexpToyRoundKeys : Obligations.KexpToyRoundKeys := by
  intro s hvariant hlow hhigh hlen
  refine ⟨s.derivedKeys, exec_kexp hlow hhigh (by rw [hvariant]; exact hlen), fun i hi => ?_⟩
  rw [State.derivedKeys, getElem_roundKeyFile _ hi, State.rawKeySeq, hvariant]
  show regOf 48 ((toySchedule s.params.toyR1Shift (seqOf 9 s.key) s.rounds).getD i []) = _
  rw [getD_toySchedule]
  split
  · rw [toyRoundKey_seqOf, regOf_seqOf]
  · rfl

/-! ### The Full schedule -/

/-- The rotations accumulate: round key `i + 1` selects from the halves rotated by the sum of its own and the
earlier amounts (44_key_schedule.md R602). -/
theorem getD_fullRoundKeys (ks : List Nat) (c d : Bits) (i : Nat) :
    (fullRoundKeys ks c d).getD i [] =
      if i < ks.length then
        applyTable (rotl c (ks.take (i + 1)).sum ++ rotl d (ks.take (i + 1)).sum) tablePC2
      else [] := by
  induction ks generalizing c d i with
  | nil => rfl
  | cons k ks ih =>
    cases i with
    | zero => simp [fullRoundKeys]
    | succ i =>
      rw [fullRoundKeys, List.getD_cons_succ, ih]
      simp only [rotl_rotl, List.take_succ_cons, List.sum_cons, List.length_cons, Nat.add_lt_add_iff_right]

/-- The element of the 56-bit key that stands at `p` once both halves are rotated by `turn`
(44_key_schedule.md R602). -/
def turnedIndex (turn p : Nat) : Nat :=
  if p < 28 then (p + turn) % 28 else 28 + (p - 28 + turn) % 28

theorem turnedIndex_lt (turn p : Nat) : turnedIndex turn p < 56 := by
  unfold turnedIndex
  split <;> omega

theorem getD_rotl_halves {x : Bits} (hx : x.length = 56) (turn : Nat) {p : Nat} (hp : p < 56) :
    (rotl (x.take 28) turn ++ rotl (x.drop 28) turn).getD p false = x.getD (turnedIndex turn p) false := by
  have hc : (x.take 28).length = 28 := by simp [hx]
  have hd : (x.drop 28).length = 28 := by simp [hx]
  unfold turnedIndex
  split
  · next h =>
    have hturn : (p + turn) % 28 < 28 := Nat.mod_lt _ (by decide)
    rw [List.getD_append _ _ _ _ (by simpa [hc] using h), getD_rotl, hc, decide_eq_true h, Bool.true_and]
    simp [List.getD, hturn]
  · next h =>
    have hhalf : p - 28 < 28 := by omega
    rw [List.getD_append_right _ _ _ _ (by simp only [length_rotl, hc]; omega), length_rotl, hc, getD_rotl, hd,
      decide_eq_true hhalf, Bool.true_and]
    simp [List.getD]

/-- Where every entry of a table lies below a positive bound, so does what a lookup answers. -/
theorem getD_lt_of_forall_lt {table : List Nat} {n : Nat} (h : ∀ e ∈ table, e < n) (hn : 0 < n) (i : Nat) :
    table.getD i 0 < n := by
  by_cases hi : i < table.length
  · rw [List.getD_eq_getElem _ _ hi]
    exact h _ (List.getElem_mem hi)
  · rw [List.getD_eq_default _ _ (by omega)]
    exact hn

/-- Element `q` of the 56-bit key, from the key register (44_key_schedule.md R602). -/
theorem getD_applyTable_PC1 (key : BitVec 64) {q : Nat} (hq : q < 56) :
    (applyTable (seqOf 64 key) tablePC1).getD q false = key.getLsbD (tablePC1.getD q 0) := by
  have hentry : tablePC1.getD q 0 < 64 :=
    getD_lt_of_forall_lt (lt_of_mem_fixedTable (t := 4) rfl) (by decide) q
  have hlength : q < tablePC1.length := hq
  rw [getD_applyTable, getD_seqOf, decide_eq_true hentry, decide_eq_true hlength, Bool.true_and,
    Bool.true_and]

/-- The Full round key of the 56-bit key with both halves rotated by `turn` (44_key_schedule.md R602). -/
def fullRoundKey (k : Bits) (turn : Nat) : Bits :=
  let cd := applyTable k tablePC1
  applyTable (rotl (cd.take 28) turn ++ rotl (cd.drop 28) turn) tablePC2

theorem getD_fullSchedule (k : Bits) {n : Nat} (hn : n ≤ 16) (i : Nat) :
    (fullSchedule k n).getD i [] =
      if i < n then fullRoundKey k (shiftTable.take (i + 1)).sum else [] := by
  have hlen : (shiftTable.take n).length = n := by
    rw [List.length_take]
    exact Nat.min_eq_left hn
  rw [fullSchedule, getD_fullRoundKeys, hlen]
  split
  · next h => rw [List.take_take, Nat.min_eq_left h, fullRoundKey]
  · rfl

/-- Bit `j` of a Full round key, through PC2, the accumulated rotation and PC1 (44_key_schedule.md R602). -/
theorem getD_fullRoundKey (key : BitVec 64) (turn : Nat) {j : Nat} (hj : j < 48) :
    (fullRoundKey (seqOf 64 key) turn).getD j false =
      key.getLsbD (tablePC1.getD (turnedIndex turn (tablePC2.getD j 0)) 0) := by
  have hentry : tablePC2.getD j 0 < 56 :=
    getD_lt_of_forall_lt (lt_of_mem_fixedTable (t := 5) rfl) (by decide) j
  have hlength : j < tablePC2.length := hj
  rw [fullRoundKey, getD_applyTable, getD_rotl_halves (length_applyTable _ _) turn hentry,
    getD_applyTable_PC1 key (turnedIndex_lt turn _), decide_eq_true hlength, Bool.true_and]

/-- Settles O12: the entries are the register forms of the Full schedule's round keys. -/
theorem kexpFullRoundKeys : Obligations.KexpFullRoundKeys := by
  intro s hvariant hlow hhigh hlen
  refine ⟨s.derivedKeys, exec_kexp hlow hhigh (by rw [hvariant]; exact hlen), fun i hi j hj => ?_⟩
  rw [State.derivedKeys, getElem_roundKeyFile _ hi, State.rawKeySeq, hvariant, getLsbD_regOf,
    decide_eq_true hj, Bool.true_and]
  show ((fullSchedule (seqOf 64 s.key) s.rounds).getD i []).getD j false = _
  rw [getD_fullSchedule _ hhigh]
  split
  · next h => rw [getD_fullRoundKey _ _ hj, decide_eq_true h, Bool.true_and]; rfl
  · next h => rw [decide_eq_false h, Bool.false_and]; rfl

/-! ### What reaches the round-key file -/

/-- A command that passes its checks leaves the file, unless it is `KEXP` or resets the block. -/
theorem success_rkf {i : Instr} (hkexp : i ≠ .kexp) (hsrst : i ≠ .srst) (s : State) :
    (success i s).rkf = s.rkf := by
  cases i with
  | kexp => exact absurd rfl hkexp
  | srst => exact absurd rfl hsrst
  | _ => rfl

theorem exec_rkf {i : Instr} {s t : State} (he : exec i s = .next t) :
    t.rkf = s.rkf ∨ i = .kexp ∨ t = resetBlock s := by
  obtain ⟨code, -, rfl⟩ | ⟨-, rfl⟩ := exec_cases he
  · exact .inl rfl
  · by_cases hkexp : i = .kexp
    · exact .inr (.inl hkexp)
    · by_cases hsrst : i = .srst
      · subst hsrst; exact .inr (.inr rfl)
      · exact .inl (success_rkf hkexp hsrst s)

theorem engineCase_rkf {s t : State} (hc : EngineCase s t) :
    t.rkf = s.rkf ∨ (∃ w, s.pending = some w ∧ decode w = .command .kexp) ∨ t = resetBlock s := by
  cases hc with
  | command w i hp hd he =>
    obtain hsame | rfl | hreset := exec_rkf he
    · exact .inl hsame
    · exact .inr (.inl ⟨w, hp, hd⟩)
    · exact .inr (.inr hreset)
  | illegal w r hp hd ht => exact .inl (ht ▸ rfl)
  | stream hp ha ht =>
    obtain ⟨q, inq, outq, n, d, heq⟩ := streamStep_frame s
    exact .inl (by rw [ht, heq])
  | idle hp ha ht => exact .inl (ht ▸ rfl)

theorem setReg_rkf (r : Reg) (v : Word) (s : State) : (setReg r v s).rkf = s.rkf := by
  cases r with
  | fifoIn =>
    obtain ⟨q, e, heq⟩ := pushIn_frame v s
    rw [setReg, heq]
  | _ => rfl

theorem writeReg_rkf (off : Nat) (v : Word) (s : State) : (writeReg off v s).rkf = s.rkf := by
  unfold writeReg
  split
  · rfl
  · exact setReg_rkf _ v s

theorem hostCase_rkf {a : Access} {s t : State} (hc : HostCase a s t) :
    t.rkf = s.rkf ∨ t = resetBlock s := by
  cases hc with
  | read off ha ht =>
    obtain ⟨q, v, n, heq⟩ := readReg_frame (regAt off) s
    exact .inl (by rw [ht, heq])
  | write off v ha hoff ht => exact .inl (ht ▸ writeReg_rkf off v s)
  | srst w ha ht => exact .inr ht
  | mabt w ha hm ht => exact .inl (ht ▸ rfl)
  | rejected w ha hb ht => exact .inl (ht ▸ rfl)
  | accepted w ha hb ht => exact .inl (ht ▸ rfl)

/-- Settles O49, by the cases of a step: the reset event, a host access, the engine's turn. -/
theorem roundKeysChangeOnlyByKexp : Obligations.RoundKeysChangeOnlyByKexp := by
  intro s t hstep hne
  cases step_cases hstep with
  | reset rest hs ht => exact .inr ht
  | host a rest hs hc => exact .inr ((hostCase_rkf hc).resolve_left hne)
  | engine hc => exact (engineCase_rkf hc).resolve_left hne

end Sys2Proof.Machine
end

section
/-! The Feistel function lane by lane, and the commands `FFN`, `ROUND`, `SWAP`, `ENCB` and `DECB`
(45_feistel.md). -/

namespace Sys2Proof.Machine

/-! ### The Feistel function -/

theorem length_expansionTable (v : Variant) : (expansionTable v).length = roundKeyWidth v := by cases v <;> rfl

theorem length_outputTable (v : Variant) : (outputTable v).length = halfWidth v := by cases v <;> rfl

/-- The S-box inputs use up the round key, the S-box outputs make up a half-block (45_feistel.md R650, R651). -/
theorem roundKeyWidth_eq (v : Variant) : roundKeyWidth v = boxIn v * boxCount v := by cases v <;> rfl

theorem halfWidth_eq (v : Variant) : halfWidth v = boxCount v * boxOut v := by cases v <;> rfl

/-- Every output element comes from a box's output (42_permutation.md R511). -/
theorem getD_outputTable_lt (v : Variant) (j : Nat) : (outputTable v).getD j 0 < halfWidth v := by
  cases v with
  | full => exact getD_lt_of_forall_lt (lt_of_mem_fixedTable (t := 3) rfl) (by decide) j
  | toy => exact getD_lt_of_forall_lt (lt_of_mem_fixedTable (t := 7) rfl) (by decide) j

/-- Each lane's group lies within the expanded sequence. -/
theorem group_le_roundKeyWidth {v : Variant} {k : Nat} (hk : k < boxCount v) :
    boxIn v * k + boxIn v ≤ roundKeyWidth v := by
  rw [roundKeyWidth_eq, ← Nat.mul_succ]
  exact Nat.mul_le_mul_left _ hk

/-- An output element stands in one of the lanes. -/
theorem lane_lt_boxCount {v : Variant} {y : Nat} (hy : y < halfWidth v) : y / boxOut v < boxCount v :=
  Nat.div_lt_of_lt_mul (by rwa [Nat.mul_comm, ← halfWidth_eq])

/-- Element `y` of the S-box layer is a bit of the entry that lane `y / SO` selects in its own box
(45_feistel.md R650, R651, 43_sbox.md R552, R554). -/
theorem getD_sboxLayer {v : Variant} {x : Bits} (hx : x.length = roundKeyWidth v) {y : Nat}
    (hy : y < halfWidth v) :
    (sboxLayer v x).getD y false =
      (selectedEntry v (y / boxOut v) fun m => (x.getD (boxIn v * (y / boxOut v) + m) false).toNat).testBit
        (boxOut v - 1 - y % boxOut v) := by
  have hout : 0 < boxOut v := by cases v <;> decide
  have hgroup := group_le_roundKeyWidth (lane_lt_boxCount hy)
  have hlength : ((x.drop (boxIn v * (y / boxOut v))).take (boxIn v)).length = boxIn v := by
    rw [List.length_take, List.length_drop]
    omega
  rw [sboxLayer, getD_flatMap_range _ _ _ (fun k => length_substitute v k _) _ (halfWidth_eq v ▸ hy),
    getD_substitute_eq_selectedEntry _ hlength, decide_eq_true (Nat.mod_lt y hout), Bool.true_and]
  congr 1
  exact selectedEntry_congr _ fun m hm => by rw [getD_drop_take _ _ hm]

/-- Settles O13: an output element is an element of the S-box layer, whose lane selects by elements of
`xor(expand(R), K)`. -/
theorem feistelFunctionByLanes : Obligations.FeistelFunctionByLanes := by
  intro v rs k hrs hk
  refine ⟨length_feistel v rs k, fun j hj => ?_⟩
  intro x y lane b z
  have hy : y < halfWidth v := getD_outputTable_lt v j
  have hexpand : (applyTable rs (expansionTable v)).length = k.length := by
    rw [length_applyTable, length_expansionTable, hk]
  have hxor : (xorBits (applyTable rs (expansionTable v)) k).length = roundKeyWidth v := by
    rw [length_xorBits, hexpand, Nat.min_self, hk]
  have hgroup : boxIn v * lane + boxIn v ≤ roundKeyWidth v := group_le_roundKeyWidth (lane_lt_boxCount hy)
  have hinput : ∀ m < boxIn v,
      ((xorBits (applyTable rs (expansionTable v)) k).getD (boxIn v * lane + m) false).toNat = z m := by
    intro m hm
    have hin : boxIn v * lane + m < roundKeyWidth v := by omega
    rw [getD_xorBits _ _ hexpand, getD_applyTable, length_expansionTable, decide_eq_true hin, Bool.true_and]
  calc (feistel v rs k).getD j false
      = (sboxLayer v (xorBits (applyTable rs (expansionTable v)) k)).getD y false := by
        rw [feistel, getD_applyTable, length_outputTable, decide_eq_true hj, Bool.true_and]
    _ = (selectedEntry v lane z).testBit (boxOut v - 1 - b) := by
        rw [getD_sboxLayer hxor hy, selectedEntry_congr lane hinput]
    _ = _ := by cases v <;> rfl

/-! ### Half-blocks in their registers -/

/-- A register written with a sequence of `h` elements is zero above them (10_state.md R138). -/
theorem lowHalf_regOf {v : Variant} {x : Bits} (h : x.length = halfWidth v) :
    lowHalf v (regOf 32 x) = regOf 32 x := by
  rw [← regOf_seqOf_half, seqOf_regOf x h (halfWidth_le v)]

/-- The register form of a sequence that fits, in a register of another width (00_scope.md R10). -/
theorem setWidth_regOf {m : Nat} (n : Nat) {x : Bits} (h : x.length ≤ m) :
    (regOf m x).setWidth n = regOf n x := by
  apply BitVec.eq_of_toNat_eq
  rw [BitVec.toNat_setWidth, toNat_regOf m x h]
  rfl

/-- The exclusive-or of two sequences of one length, in a register (00_scope.md R9, R10). -/
theorem regOf_xorBits (w : Nat) {x y : Bits} (h : x.length = y.length) :
    regOf w (xorBits x y) = regOf w x ^^^ regOf w y := by
  apply BitVec.eq_of_getLsbD_eq
  intro j hj
  rw [BitVec.getLsbD_xor, getLsbD_regOf, getLsbD_regOf, getLsbD_regOf, getD_xorBits x y h,
    decide_eq_true hj, Bool.true_and, Bool.true_and, Bool.true_and]

theorem complete_writeHalves_swap (s : State) : complete (writeHalves s.halves.swap s) = { s with
    halfL := lowHalf s.ctrl.variant s.halfR, halfR := lowHalf s.ctrl.variant s.halfL,
    pending := none, done := true } := by
  rw [← regOf_seqOf_half, ← regOf_seqOf_half]
  rfl

/-- Writing the half-blocks that were read keeps their low `h` bits (10_state.md R138). -/
theorem complete_writeHalves_halves (s : State) : complete (writeHalves s.halves s) = { s with
    halfL := lowHalf s.ctrl.variant s.halfL, halfR := lowHalf s.ctrl.variant s.halfR,
    pending := none, done := true } := by
  rw [← regOf_seqOf_half, ← regOf_seqOf_half]
  rfl

/-- The next command reads the half-blocks that the last one wrote (10_state.md R138). -/
theorem halves_complete_writeHalves {s : State} {p : Bits × Bits} (h : HalvesOk s.ctrl.variant p) :
    (complete (writeHalves p s)).halves = p := halves_writeHalves h

/-- Of two completed writes of the half-blocks the last one counts. -/
theorem complete_writeHalves_twice (p q : Bits × Bits) (s : State) :
    complete (writeHalves q (complete (writeHalves p s))) = complete (writeHalves q s) := rfl

/-! ### `FFN` and `ROUND` -/

/-- The checks of `FFN i` and `ROUND i` pass (30_encoding.md R320). -/
theorem checks_of_round {s : State} {i : Nat} (hkey : s.keyValid = true) (hlow : 1 ≤ i)
    (hhigh : i ≤ s.rounds) : ∀ c ∈ [keyCheck s, roundCheck i s], c.1 = false := by
  simp [keyCheck, roundCheck, hkey, hlow, hhigh]

theorem exec_ffn {s : State} {i : Nat} (hkey : s.keyValid = true) (hlow : 1 ≤ i) (hhigh : i ≤ s.rounds) :
    exec (.ffn i) s =
      .next (complete (writeRes (feistel s.ctrl.variant s.rightSeq (s.roundKeySeq i)) s)) :=
  exec_of_passes (checks_of_round hkey hlow hhigh)

theorem exec_round {s : State} {i : Nat} (hkey : s.keyValid = true) (hlow : 1 ≤ i) (hhigh : i ≤ s.rounds) :
    exec (.round i) s =
      .next (complete (writeHalves (roundForward s.ctrl.variant (s.roundKeySeq i) s.halves) s)) :=
  exec_of_passes (checks_of_round hkey hlow hhigh)

/-- Settles O14: `f` is the register form of the Feistel function's value. -/
theorem ffnAndRoundResults : Obligations.FfnAndRoundResults := by
  intro s i hkey hlow hhigh
  let o := feistel s.ctrl.variant s.rightSeq (s.roundKeySeq i)
  have ho : o.length = halfWidth s.ctrl.variant := length_feistel _ _ _
  have hle : halfWidth s.ctrl.variant ≤ 32 := halfWidth_le _
  have hleft : s.leftSeq.length = o.length := by rw [ho, State.leftSeq, length_seqOf]
  refine ⟨regOf 32 o, seqOf_regOf o ho hle, (lowHalf_regOf ho).symm, ?_, ?_⟩
  · rw [exec_ffn hkey hlow hhigh, setWidth_regOf 64 (ho.trans_le hle), ← ho]
    rfl
  · rw [exec_round hkey hlow hhigh, ← regOf_seqOf_half, ← regOf_seqOf_half]
    show _ = (.next { s with
      halfL := regOf 32 s.rightSeq, halfR := regOf 32 s.leftSeq ^^^ regOf 32 o,
      pending := none, done := true } : StepResult)
    rw [← regOf_xorBits 32 hleft]
    rfl

/-! ### `SWAP` -/

theorem exec_swap (s : State) : exec .swap s = .next (complete (writeHalves s.halves.swap s)) := rfl

/-- Settles O15: the second `SWAP` reads the half-blocks that the first one wrote. -/
theorem swapExchangesHalves : Obligations.SwapExchangesHalves := by
  intro s
  refine ⟨by rw [exec_swap, complete_writeHalves_swap], ?_⟩
  have hread := halves_complete_writeHalves (halvesOk_swap (halvesOk_halves s))
  simp only [execAll, exec_swap]
  rw [hread, complete_writeHalves_twice, Prod.swap_swap, complete_writeHalves_halves]

/-! ### `ENCB` and `DECB` -/

/-- The block command of a direction. -/
def blockCommand (dec : Bool) : Instr := if dec then .decb else .encb

/-- `enc_block` or `dec_block`, by direction (45_feistel.md R653, R654). -/
def cipherHalves (v : Variant) (dec : Bool) (keys : List Bits) (p : Bits × Bits) : Bits × Bits :=
  (runRounds v (keyOrder dec keys) p).swap

theorem encBlock_eq_cipherHalves (v : Variant) (keys : List Bits) (p : Bits × Bits) :
    encBlock v keys p = cipherHalves v false keys p := rfl

theorem decBlock_eq_cipherHalves (v : Variant) (keys : List Bits) (p : Bits × Bits) :
    decBlock v keys p = cipherHalves v true keys p := rfl

theorem halvesOk_cipherHalves {v : Variant} {p : Bits × Bits} (dec : Bool) (keys : List Bits)
    (h : HalvesOk v p) : HalvesOk v (cipherHalves v dec keys p) :=
  halvesOk_swap (halvesOk_runRounds _ h)

/-- Each direction undoes the other (45_feistel.md R680). -/
theorem cipherHalves_cipherHalves {v : Variant} {p : Bits × Bits} (dec : Bool) (keys : List Bits)
    (h : HalvesOk v p) : cipherHalves v (!dec) keys (cipherHalves v dec keys p) = p := by
  rw [cipherHalves, cipherHalves, keyOrder_not, runRounds_reverse_swap _ h, Prod.swap_swap]

theorem exec_blockCommand {s : State} (dec : Bool) (hkey : s.keyValid = true) :
    exec (blockCommand dec) s =
      .next (complete (writeHalves (cipherHalves s.ctrl.variant dec s.roundKeySeqs s.halves) s)) := by
  have hchecks : checksOf (blockCommand dec) s = [keyCheck s] := by cases dec <;> rfl
  rw [exec_of_passes (by simp [hchecks, keyCheck, hkey])]
  cases dec <;> rfl

/-- A block command leaves its block in `L` and `R`, zero above the low `h` bits (10_state.md R138). -/
theorem exec_blockCommand_registers {s : State} (dec : Bool) (hkey : s.keyValid = true) :
    ∃ l r : Word, (seqOf (halfWidth s.ctrl.variant) l, seqOf (halfWidth s.ctrl.variant) r) =
        cipherHalves s.ctrl.variant dec s.roundKeySeqs s.halves ∧
      l = lowHalf s.ctrl.variant l ∧ r = lowHalf s.ctrl.variant r ∧
      exec (blockCommand dec) s = .next { s with halfL := l, halfR := r, pending := none, done := true } := by
  obtain ⟨hl, hr⟩ := halvesOk_cipherHalves dec s.roundKeySeqs (halvesOk_halves s)
  refine ⟨regOf 32 _, regOf 32 _, ?_, (lowHalf_regOf hl).symm, (lowHalf_regOf hr).symm,
    exec_blockCommand dec hkey⟩
  rw [seqOf_regOf _ hl (halfWidth_le _), seqOf_regOf _ hr (halfWidth_le _)]

/-- The other block command brings the half-blocks back. -/
theorem execAll_blockCommand_not {s : State} (dec : Bool) (hkey : s.keyValid = true) :
    execAll [blockCommand dec, blockCommand (!dec)] s = .next { s with
      halfL := lowHalf s.ctrl.variant s.halfL, halfR := lowHalf s.ctrl.variant s.halfR,
      pending := none, done := true } := by
  let t := complete (writeHalves (cipherHalves s.ctrl.variant dec s.roundKeySeqs s.halves) s)
  have hread : t.halves = cipherHalves s.ctrl.variant dec s.roundKeySeqs s.halves :=
    halves_complete_writeHalves (halvesOk_cipherHalves dec s.roundKeySeqs (halvesOk_halves s))
  have hback : cipherHalves t.ctrl.variant (!dec) t.roundKeySeqs t.halves = s.halves :=
    hread ▸ cipherHalves_cipherHalves dec s.roundKeySeqs (halvesOk_halves s)
  have hsecond : exec (blockCommand (!dec)) t = .next (complete (writeHalves s.halves t)) :=
    hback ▸ exec_blockCommand (!dec) hkey
  simp only [execAll, exec_blockCommand dec hkey]
  rw [hsecond, complete_writeHalves_twice, complete_writeHalves_halves]

/-- Single rounds and then the swap, for round indices within 1..N in any order: the rounds leave the keys and
the control register alone, so each reads its own round key (45_feistel.md R680). -/
theorem execAll_rounds_swap {s : State} {js : List Nat} (hkey : s.keyValid = true)
    (hjs : ∀ j ∈ js, j < s.rounds) :
    execAll (js.map (fun j => .round (j + 1)) ++ [.swap]) s =
      .next (complete (writeHalves
        (runRounds s.ctrl.variant (js.map fun j => s.roundKeySeq (j + 1)) s.halves).swap s)) := by
  induction js generalizing s with
  | nil => rfl
  | cons j js ih =>
    let t := complete (writeHalves (roundForward s.ctrl.variant (s.roundKeySeq (j + 1)) s.halves) s)
    have hround : exec (.round (j + 1)) s = .next t :=
      exec_round hkey (Nat.le_add_left 1 j) (hjs j List.mem_cons_self)
    have hread : t.halves = roundForward s.ctrl.variant (s.roundKeySeq (j + 1)) s.halves :=
      halves_complete_writeHalves (halvesOk_roundForward _ (halvesOk_halves s))
    have hrest := ih (s := t) hkey fun i hi => hjs i (List.mem_cons_of_mem j hi)
    rw [hread] at hrest
    simp only [List.map_cons, List.cons_append, execAll, hround]
    exact hrest

/-- Settles O16: both directions are one block transform by key order, which the other direction undoes and
which single rounds and the swap make up. -/
theorem blockRoundTripAndComposition : Obligations.BlockRoundTripAndComposition := by
  simp only [Obligations.BlockRoundTripAndComposition, encBlock_eq_cipherHalves, decBlock_eq_cipherHalves]
  refine ⟨fun v keys ls rs hl hr => ?_, fun s hkey => ?_⟩
  · have h : HalvesOk v (ls, rs) := ⟨hl, hr⟩
    exact ⟨cipherHalves_cipherHalves false keys h, cipherHalves_cipherHalves true keys h⟩
  · refine ⟨exec_blockCommand_registers false hkey, exec_blockCommand_registers true hkey,
      execAll_blockCommand_not false hkey, execAll_blockCommand_not true hkey, ?_, ?_⟩
    · rw [execAll_rounds_swap hkey fun j hj => List.mem_range.mp hj]
      exact (exec_blockCommand false hkey).symm
    · rw [execAll_rounds_swap hkey fun j hj => List.mem_range.mp (List.mem_reverse.mp hj), List.map_reverse]
      exact (exec_blockCommand true hkey).symm

end Sys2Proof.Machine
end

section
/-! The system commands `NOP` and `SRST`, and the reset event (46_system.md R700, R705, 70_reset_and_hazards.md
R900). -/

namespace Sys2Proof.Machine

/-! ### `NOP` -/

theorem exec_nop (s : State) : exec .nop s = .next (complete s) := rfl

/-- On an idle block a pending `NOP` leaves nothing behind but `DONE` (46_system.md R700). -/
theorem complete_pending_of_idle {s : State} (h : s.pending = none) (w : Word) :
    complete { s with pending := some w } = { s with done := true } := by rw [complete, ← h]

/-- Settles O8: the submissions are 30_encoding.md R310 for the word 0, whatever the agenda of the state is, and
the engine's turn runs the decoded command. -/
theorem nopOnlyCompletes : Obligations.NopOnlyCompletes := by
  have hne : (0 : Word).toNat ≠ 0x01 := by decide
  have hdecode : decode 0 = .command .nop := by decide
  have hsubmit (s : State) (hidle : s.busy = false) :
      step (s.facingWrite 0x010 0) = .next { s with pending := some 0 } := by
    obtain ⟨-, -, -, haccept⟩ := commandAcceptance s 0
    exact haccept hne hidle
  have hrun (s : State) (hidle : s.busy = false) :
      step (State.facing { s with pending := some 0 } .engine) = .next { s with done := true } := by
    obtain ⟨hengine, -⟩ := stepRunsTheDecodedCommand.1 { s with pending := some 0 } 0 .nop rfl hdecode
    rw [hengine, exec_nop, complete_pending_of_idle (busy_eq_false.mp hidle).1]
  have hreject (s : State) (hbusy : s.busy = true) :
      step (s.facingWrite 0x010 0) = .next { s with error := recorded s.error .sequence .command 0 } := by
    obtain ⟨-, -, hbusyCase, -⟩ := commandAcceptance s 0
    exact hbusyCase hne hbusy fun ⟨hmabt, _⟩ => absurd hmabt (by decide)
  exact ⟨rfl, exec_nop, fun s hidle => ⟨hsubmit s hidle, hsubmit (s.facing .engine) hidle, hrun s hidle⟩,
    hreject⟩

/-! ### `SRST` and the reset event -/

theorem exec_srst (s : State) : exec .srst s = .next (resetBlock s) := rfl

/-- No flag and no error field is set after reset (10_state.md R170). -/
theorem statusWord_resetBlock (s : State) : (resetBlock s).statusWord = 0 :=
  (by decide : State.reset.statusWord = 0)

theorem ctrlWord_resetBlock (s : State) : ctrlWord (resetBlock s).ctrl = 0x00001000 :=
  (by decide : ctrlWord Ctrl.reset = 0x00001000)

theorem irq_resetBlock (s : State) : (resetBlock s).irq = false := rfl

theorem fifoStatWord_resetBlock {s : State} (h : s.params.Legal) :
    (resetBlock s).fifoStatWord = 0x000A0000 :=
  (fifoStatWord_resetWith h : (State.resetWith s.params).fifoStatWord = 0x000A0000)

/-- Settles O9: the command, its write to `CMD` and the reset event are all `resetBlock`. -/
theorem softResetIsTheResetEvent : Obligations.SoftResetIsTheResetEvent := by
  intro s
  obtain ⟨hsrst, -, -, -⟩ := commandAcceptance s 0x01
  have hwrite : step (s.facingWrite 0x010 0x01) = .next (resetBlock s) := (hsrst rfl).trans (exec_srst s)
  exact ⟨resetBlock s, rfl, exec_srst s, hwrite, step_facing_reset s, statusWord_resetBlock s,
    ctrlWord_resetBlock s, irq_resetBlock s, fifoStatWord_resetBlock⟩

end Sys2Proof.Machine
end

section
/-! The error record through the flags, the interrupt output, and what a running message leaves alone
(60_exceptions.md R810, R812, R830, R850). -/

namespace Sys2Proof.Machine

/-! ### Raising an error -/

/-- Settles O33, by whether an error was recorded before. -/
theorem raisedErrorIsRecorded : Obligations.RaisedErrorIsRecorded := by
  intro s c src info
  refine ⟨raiseError_eq c src info s, ?_⟩
  cases he : s.error with
  | none =>
    have hfirst := raiseError_error_of_none he c src info
    simp [State.errFlag, State.errCode, State.errSrc, State.errInfo, State.errMulti, he, hfirst]
  | some e =>
    have hlater := raiseError_error_of_some he c src info
    simp [State.errFlag, State.errCode, State.errSrc, State.errInfo, State.errMulti, he, hlater]

theorem errFlag_raiseError (c : ErrorCode) (src : ErrorSource) (info : Word) (s : State) :
    (raiseError c src info s).errFlag = true := by
  obtain ⟨-, hflag, -⟩ := raisedErrorIsRecorded s c src info
  exact hflag

theorem errFlag_failCommand (c : ErrorCode) (w : Word) (s : State) : (failCommand c w s).errFlag = true :=
  errFlag_raiseError c .command w s

/-! ### A running message -/

theorem streamStep_modeDec (s : State) : (streamStep s).stream.modeDec = s.stream.modeDec := by
  unfold streamStep
  split
  · next m _ =>
    cases m with
    | pad => exact modeDec_padStep s
    | _ => rfl
  · rfl

/-- Settles O51: the engine's turn is `streamStep`, whose frame is known. -/
theorem runningMessageTouchesOnlyTheStream : Obligations.RunningMessageTouchesOnlyTheStream := by
  intro s t hp ha hstep
  rw [step_facing_engine, engineStep_stream hp ha] at hstep
  cases hstep
  obtain ⟨q, inq, outq, n, d, heq⟩ := streamStep_frame s
  exact ⟨by rw [heq], streamStep_modeDec s⟩

/-! ### What a step does to `CTRL` -/

/-- A register write that changes `CTRL` finds the block idle and records no error (10_state.md R160). -/
theorem writeReg_ctrl (off : Nat) (v : Word) (s : State) :
    (writeReg off v s).ctrl = s.ctrl ∨ (s.busy = false ∧ (writeReg off v s).error = s.error) := by
  unfold writeReg
  split
  · exact .inl rfl
  · next hfree =>
    cases hr : regAt off with
    | ctrl => exact .inr ⟨by simpa [hr, Reg.locked] using hfree, rfl⟩
    | fifoIn =>
      obtain ⟨q, e, heq⟩ := pushIn_frame v s
      exact .inl (by rw [setReg, heq])
    | _ => exact .inl rfl

theorem hostCase_ctrl {a : Access} {s t : State} (hc : HostCase a s t) :
    t.ctrl = s.ctrl ∨ (s.busy = false ∧ t.error = s.error) ∨ t = resetBlock s := by
  cases hc with
  | read off ha ht =>
    obtain ⟨q, v, n, heq⟩ := readReg_frame (regAt off) s
    exact .inl (by rw [ht, heq])
  | write off v ha hoff ht => exact ht ▸ (writeReg_ctrl off v s).imp_right .inl
  | srst w ha ht => exact .inr (.inr ht)
  | mabt w ha hm ht => exact .inl (ht ▸ rfl)
  | rejected w ha hb ht => exact .inl (ht ▸ rfl)
  | accepted w ha hb ht => exact .inl (ht ▸ rfl)

/-- The engine writes `CTRL` only by resetting the block (20_memory.md R232). -/
theorem engineCase_ctrl {s t : State} (hc : EngineCase s t) : t.ctrl = s.ctrl ∨ t = resetBlock s := by
  cases hc with
  | command w i hp hd he =>
    by_cases hi : i = .srst
    · subst hi
      exact .inr (Host.Outcome.next.inj he).symm
    · exact .inl (congrArg Prod.fst (exec_hostRegisters hi he))
  | illegal w r hp hd ht => exact .inl (ht ▸ rfl)
  | stream hp ha ht =>
    obtain ⟨q, inq, outq, n, d, heq⟩ := streamStep_frame s
    exact .inl (by rw [ht, heq])
  | idle hp ha ht => exact .inl (ht ▸ rfl)

/-- A step that changes `CTRL` starts from an idle block and records no error, or is a reset. -/
theorem step_ctrl {s t : State} (h : step s = .next t) :
    t.ctrl = s.ctrl ∨ (s.busy = false ∧ t.error = s.error) ∨
      t = resetBlock { s with agenda := s.agenda.tail } := by
  cases step_cases h with
  | reset rest hs ht => exact .inr (.inr ht)
  | host a rest hs hc => exact hostCase_ctrl hc
  | engine hc => exact (engineCase_ctrl hc).imp_right .inr

/-! ### The interrupt output -/

theorem irq_iff {s : State} : s.irq = true ↔
    (s.done = true ∧ s.ctrl.ieDone = true) ∨ (s.errFlag = true ∧ s.ctrl.ieErr = true) := by
  simp [State.irq]

theorem irq_of_done {s : State} (hdone : s.done = true) (hie : s.ctrl.ieDone = true) : s.irq = true :=
  irq_iff.mpr (.inl ⟨hdone, hie⟩)

theorem irq_of_errFlag {s : State} (herr : s.errFlag = true) (hie : s.ctrl.ieErr = true) : s.irq = true :=
  irq_iff.mpr (.inr ⟨herr, hie⟩)

/-- `DONE` and `ERR` are bits 8 and 9 of `STATUS` (10_state.md R125, R126). -/
theorem statusWord_sources (s : State) :
    s.statusWord.getLsbD 8 = s.done ∧ s.statusWord.getLsbD 9 = s.errFlag := by
  simp only [State.statusWord, BitVec.getLsbD_or, getLsbD_bitAt, getLsbD_fieldAt]
  simp

/-- `IE_DONE` and `IE_ERR` are bits 3 and 4 of `CTRL` (10_state.md R114, R115). -/
theorem ctrlWord_enables (c : Ctrl) :
    (ctrlWord c).getLsbD 3 = c.ieDone ∧ (ctrlWord c).getLsbD 4 = c.ieErr := by
  simp only [ctrlWord, BitVec.getLsbD_or, getLsbD_bitAt, getLsbD_fieldAt]
  simp

theorem irq_iff_register_bits (s : State) : s.irq = true ↔
    (s.statusWord.getLsbD 8 = true ∧ (ctrlWord s.ctrl).getLsbD 3 = true) ∨
    (s.statusWord.getLsbD 9 = true ∧ (ctrlWord s.ctrl).getLsbD 4 = true) := by
  obtain ⟨hdone, herr⟩ := statusWord_sources s
  obtain ⟨hieDone, hieErr⟩ := ctrlWord_enables s.ctrl
  rw [hdone, herr, hieDone, hieErr, irq_iff]

/-- A completion raises `IRQ` under `IE_DONE`: `CTRL` is busy-locked, so the enable stays. -/
theorem irq_of_completion {s t : State} (hie : s.ctrl.ieDone = true) (hbusy : s.busy = true)
    (hidle : t.busy = false) (hstep : step s = .next t) :
    t.irq = true ∨ t = resetBlock { s with agenda := s.agenda.tail } := by
  obtain ⟨hfalls, -⟩ := doneMarksCompletion s t hstep
  obtain hdone | ht := hfalls hbusy hidle
  · obtain hctrl | ⟨hnot, -⟩ | ht := step_ctrl hstep
    · exact .inl (irq_of_done hdone (by rw [hctrl, hie]))
    · rw [hbusy] at hnot; cases hnot
    · exact .inr ht
  · exact .inr ht

/-- A step that changes the error record and leaves an error raises `IRQ` under `IE_ERR`. -/
theorem irq_of_recorded_error {s t : State} (hie : s.ctrl.ieErr = true) (hstep : step s = .next t)
    (hnew : t.error ≠ s.error) (herr : t.errFlag = true) : t.irq = true := by
  obtain hctrl | ⟨-, hsame⟩ | rfl := step_ctrl hstep
  · exact irq_of_errFlag herr (by rw [hctrl, hie])
  · exact absurd hsame hnew
  · cases herr

/-- A write to `STATUS` that clears every enabled source lowers `IRQ` (60_exceptions.md R830). -/
theorem irq_writeStatus {s : State} {w : Word} (hdone : s.ctrl.ieDone = true → w.getLsbD 8 = true)
    (herr : s.ctrl.ieErr = true → w.getLsbD 9 = true) : (writeStatus w s).irq = false := by
  rw [← Bool.not_eq_true, irq_iff]
  rintro (⟨hset, hie⟩ | ⟨hset, hie⟩)
  · rw [writeStatus_done, hdone hie] at hset
    simp at hset
  · rw [State.errFlag, writeStatus_error, herr hie] at hset
    cases hset

/-- A pending word with a failing check raises `IRQ` under `IE_ERR` on the engine's turn (60_exceptions.md R850). -/
theorem irq_of_failingCheck {s : State} {w : Word} {c : ErrorCode} (hie : s.ctrl.ieErr = true)
    (hp : s.pending = some w) (hcheck : firstFailingCheck w s = some c) :
    ∃ t, step (s.facing .engine) = .next t ∧ t.irq = true := by
  rw [step_facing_engine, engineStep_of_pending hp, runWord_of_firstFailingCheck hcheck]
  exact ⟨failCommand c w s, rfl, irq_of_errFlag (errFlag_failCommand c w s) hie⟩

/-- Settles O47: an enabled source that a step sets stays enabled in it, since `CTRL` changes only in an idle block
and with no error. -/
theorem interruptOutput : Obligations.InterruptOutput :=
  ⟨irq_iff_register_bits, fun _ _ => irq_of_completion, fun _ _ => irq_of_recorded_error,
    fun _ _ _ => irq_of_failingCheck, fun s w hdone herr =>
      ⟨writeStatus w s, step_write_reg .status (Bool.and_false _), irq_writeStatus hdone herr⟩⟩

end Sys2Proof.Machine
end
